-- ==== Sys2Proof/Word.lean ====
section
/-!
DEFINITION. The words of MNL2 (spec/00_scope.md R8): bytes, the 16-bit CRC register and position counter, the 32-bit
register value, the 56-bit physical address. Everything the spec counts without a width is a natural number.
-/
namespace Sys2Proof

/-- A byte: 8 bits, unsigned (R8). -/
abbrev Byte := BitVec 8

/-- A 16-bit value: the CRC register (R150) and `SD_POS` (R28). -/
abbrev Half := BitVec 16

/-- The 32-bit value of a register as `REG_READ` sees it (R31). -/
abbrev Word := BitVec 32

/-- A 56-bit physical address (R82). -/
abbrev PhysAddress := BitVec 56

end Sys2Proof
end

