-- ==== Sys2Proof/Config.lean ====
section
/-!
DEFINITION. What an implementation fixes (spec/00_scope.md R6, R7) and the model's free values.
The parameters are plain data: a state carries its `Config`, no step changes it, and a claim over all states is a claim
over every parameter value (93_implementation_defined.md U1).
-/
namespace Sys2Proof

/-- The parameters of R6. `RP_CAP` and `SER_PLMAX` are computed from the others, as R6 says. -/
structure Config where
  /-- `SER_MAX`, the size of the serial frame buffer in bytes. -/
  serMax : Nat
  /-- `RAD_MAX`, the radio Layer-3 payload limit. -/
  radMax : Nat
  /-- `DC_CAP`, the DestinationCache capacity. -/
  dcCap : Nat
  /-- `NCH`, the number of receive channels of the transceiver. -/
  nch : Nat
  /-- `PREFIX`, the 4-byte physical prefix. -/
  phyPrefix : BitVec 32
  /-- `NETID`, the 2-byte network id. -/
  netId : BitVec 16
  /-- `ALLOC_TRIES`, the number of candidate draws of the PHY allocation. -/
  allocTries : Nat
  /-- `IF_RADIO`, the interface id on radio deliveries. -/
  ifRadio : Byte
  /-- `IF_SERIAL`, the interface id on serial deliveries. -/
  ifSerial : Byte
  deriving DecidableEq, Repr

/-- `RP_CAP = NCH - 2` (R6). -/
def Config.rpCap (c : Config) : Nat := c.nch - 2

/-- `SER_PLMAX = SER_MAX - 5` (R6, conflict C2). -/
def Config.serPlMax (c : Config) : Nat := c.serMax - 5

/-- The constraints R6 puts on the parameters, and nothing more. -/
structure Config.Valid (c : Config) : Prop where
  serMax_low : 5 ≤ c.serMax
  serMax_high : c.serMax ≤ 260
  radMax_high : c.radMax ≤ 255
  dcCap_low : 1 ≤ c.dcCap
  dcCap_high : c.dcCap ≤ 256
  nch_low : 3 ≤ c.nch
  allocTries_low : 1 ≤ c.allocTries
  ifIds_differ : c.ifSerial ≠ c.ifRadio

/-- The test configuration of R6 (its last column). -/
def Config.test : Config where
  serMax := 16
  radMax := 30
  dcCap := 10
  nch := 6
  phyPrefix := 0xF0F0F0F0#32
  netId := 0x0001#16
  allocTries := 255
  ifRadio := 0x00#8
  ifSerial := 0x01#8

/-- `PREAMBLE` (R7). -/
abbrev PREAMBLE : Byte := 0x7E#8
/-- `ESC` (R7). -/
abbrev ESC : Byte := 0x7D#8
/-- `XMASK` (R7). -/
abbrev XMASK : Byte := 0x20#8
/-- `CRC_SEED` (R7). -/
abbrev CRC_SEED : Half := 0x0000#16
/-- `CRC_POLY` (R7). PRESUMED, safe or not see log 15: the spec takes it from general knowledge (K1). -/
abbrev CRC_POLY : Half := 0x1021#16
/-- `BCAST_MAC` (R7). -/
abbrev BCAST_MAC : Byte := 0x00#8
/-- `BCAST_PHY` (R7). -/
abbrev BCAST_PHY : Byte := 0x00#8

/-- One answer of the random source (R90): the value is the number plus 1, so that a draw lies in [1,255] by its type. -/
abbrev Draw := Fin 255

/-- FREE VALUE (log 2, log 3). The n-th answer of the random source that no data of the state gives (R90, U2). No body. -/
opaque Config.freeDraw : Nat → Draw

/-- FREE VALUE (log 6). The n-th choice among pending sources that no data of the state gives (R207, U5). No body. -/
opaque Config.freeArb : Nat → Nat

end Sys2Proof
end

