-- ==== Sys2Proof/Syntax.lean ====
section
/-!
DEFINITION. The input events of MNL2 (spec/30_encoding.md R70, R81, R85) and its instructions: one constructor of `Instr`
per row of spec/opcode_table.json. Operands are the raw bytes the encoding carries (R71): a reserved operand value is
part of a command and is answered by the command's own rule (R74, R193).
-/
namespace Sys2Proof

/-- A host command transaction (R70): a non-empty list of bytes, `C[0]` and then `C[1..]`. -/
structure Transaction where
  /-- `C[0]` -/
  opcode : Byte
  /-- `C[1..]` -/
  operands : List Byte
  deriving DecidableEq, Repr

/-- The three sources of input events (R207). -/
inductive Source
  | command
  | stream
  | radio
  deriving DecidableEq, Repr

/-- One input event as it arrives, not yet decoded. -/
inductive Event
  /-- a transaction on the command port (R70) -/
  | command (t : Transaction)
  /-- `SerRx(b)`, one raw byte of the byte stream (R85) -/
  | serRx (b : Byte)
  /-- `RadRx(F)`, one inbound radio frame (R81) -/
  | radRx (f : List Byte)
  deriving DecidableEq, Repr

/-- The instructions: nine commands, two pseudo-instructions, four inbound event classes. -/
inductive Instr
  /-- `NOP` (R190) -/
  | nop
  /-- `REG_READ r` (R191) -/
  | regRead (r : Byte)
  /-- `TBL_LOOKUP t, m` (R106) -/
  | tblLookup (t m : Byte)
  /-- `TBL_CONTAINS t, role, v` (R107) -/
  | tblContains (t role v : Byte)
  /-- `TBL_READ t, k` (R108) -/
  | tblRead (t k : Byte)
  /-- `RAD_SEND d, P` (R127); the operand `n` is the length of `P` -/
  | radSend (d : Byte) (p : List Byte)
  /-- `RAD_REINIT` (R122) -/
  | radReinit
  /-- `SER_SEND d, P` (R164); the operand `n` is the length of `P` -/
  | serSend (d : Byte) (p : List Byte)
  /-- `SER_REDRAW` (R166) -/
  | serRedraw
  /-- `SER_BCAST P` (R92), another name of `SER_SEND 0, P` -/
  | serBcast (p : List Byte)
  /-- `RAD_BCAST P` (R92), another name of `RAD_SEND 0, P` -/
  | radBcast (p : List Byte)
  /-- a raw preamble byte on the stream (R154) -/
  | serRxPreamble
  /-- a raw escape byte on the stream (R155) -/
  | serRxEscape
  /-- any other raw byte on the stream (R156 to R162) -/
  | serRxData (b : Byte)
  /-- an inbound radio frame (R123), of any length (R126) -/
  | radRx (f : List Byte)
  deriving DecidableEq, Repr

end Sys2Proof
end

