-- ==== Sys2Proof/WellFormed.lean ====
section
/-!
DEFINITION. Which terms of `Instr` stand for an event that can arrive. The operand `n` of format FS is one byte
(spec/30_encoding.md R71), so a payload has at most 255 bytes; the class of data bytes leaves out the two control bytes
(R89). Reserved operand values (R74) are well formed: the command carrying them arrives and is answered.
-/
namespace Sys2Proof

/-- A payload the one-byte operand `n` can count (R71). -/
def payloadFits (p : List Byte) : Bool := decide (p.length ≤ 255)

/-- A raw byte of the data class (R89). -/
def isDataByte (b : Byte) : Bool := b != PREAMBLE && b != ESC

/-- The instruction stands for an event that can arrive. -/
def Instr.wellFormed : Instr → Bool
  | .nop => true
  | .regRead _ => true
  | .tblLookup _ _ => true
  | .tblContains _ _ _ => true
  | .tblRead _ _ => true
  | .radSend _ p => payloadFits p
  | .radReinit => true
  | .serSend _ p => payloadFits p
  | .serRedraw => true
  | .serBcast p => payloadFits p
  | .radBcast p => payloadFits p
  | .serRxPreamble => true
  | .serRxEscape => true
  | .serRxData b => isDataByte b
  | .radRx _ => true

end Sys2Proof
end

