-- ==== Sys2Proof/Decode.lean ====
section
/-!
DEFINITION. Decoding an input event to an instruction, total, with refusals by name, and the encoder
(spec/30_encoding.md R70 to R75, R89, R92; spec/43_control.md R193; spec/opcode_table.json).
-/
namespace Sys2Proof

/-- Why a command transaction is no instruction. -/
inductive DecodeError
  /-- `C[0]` is a reserved opcode (R74): answered with `EBADOP`. -/
  | reservedOpcode
  /-- the length is not the format's (R73): answered with `EFMT`. -/
  | malformedLength
  deriving DecidableEq, Repr

/-- The command formats of R71. -/
inductive CmdFormat
  | F0 | F1 | F2 | F3 | FS
  deriving DecidableEq, Repr

/-- The commands of R72. -/
inductive Opcode
  | NOP | REG_READ | TBL_LOOKUP | TBL_CONTAINS | TBL_READ | RAD_SEND | RAD_REINIT | SER_SEND | SER_REDRAW
  deriving DecidableEq, Repr

/-- One row of the opcode map. -/
structure OpcodeRow where
  byte : Byte
  opcode : Opcode
  format : CmdFormat
  deriving DecidableEq, Repr

/-- The opcode map of R72. -/
def opcodeMap : List OpcodeRow :=
  [⟨0x00#8, .NOP, .F0⟩, ⟨0x01#8, .REG_READ, .F1⟩,
   ⟨0x10#8, .TBL_LOOKUP, .F2⟩, ⟨0x11#8, .TBL_CONTAINS, .F3⟩, ⟨0x12#8, .TBL_READ, .F2⟩,
   ⟨0x20#8, .RAD_SEND, .FS⟩, ⟨0x21#8, .RAD_REINIT, .F0⟩,
   ⟨0x30#8, .SER_SEND, .FS⟩, ⟨0x31#8, .SER_REDRAW, .F0⟩]

/-- The row of an opcode byte; none for a reserved opcode (R74). -/
def findOpcode (b : Byte) : Option OpcodeRow := opcodeMap.find? (fun r => r.byte == b)

/-- Whether the operand bytes `C[1..]` have the length of the format (R73). -/
def formatFits : CmdFormat → List Byte → Bool
  | .F0, xs => decide (xs.length = 0)
  | .F1, xs => decide (xs.length = 1)
  | .F2, xs => decide (xs.length = 2)
  | .F3, xs => decide (xs.length = 3)
  | .FS, _ :: n :: p => decide (p.length = n.toNat)
  | .FS, _ => false

/-- The instruction of an opcode and operand bytes; none where they do not have the shape of R71. -/
def commandOf : Opcode → List Byte → Option Instr
  | .NOP, [] => some .nop
  | .REG_READ, [r] => some (.regRead r)
  | .TBL_LOOKUP, [t, m] => some (.tblLookup t m)
  | .TBL_CONTAINS, [t, role, v] => some (.tblContains t role v)
  | .TBL_READ, [t, k] => some (.tblRead t k)
  | .RAD_SEND, d :: _ :: p => some (.radSend d p)
  | .RAD_REINIT, [] => some .radReinit
  | .SER_SEND, d :: _ :: p => some (.serSend d p)
  | .SER_REDRAW, [] => some .serRedraw
  | _, _ => none

/-- Command decoding in the order of R193: opcode, then length, then the operands as they stand. -/
def decodeCommand (t : Transaction) : Except DecodeError Instr :=
  match findOpcode t.opcode with
  | none => .error .reservedOpcode
  | some row =>
    if formatFits row.format t.operands then
      match commandOf row.opcode t.operands with
      | some i => .ok i
      | none => .error .malformedLength
    else .error .malformedLength

/-- The class of a raw byte of the stream, by its value alone (R89). -/
def decodeSerRx (b : Byte) : Instr :=
  if b = PREAMBLE then .serRxPreamble
  else if b = ESC then .serRxEscape
  else .serRxData b

/-- Decoding an input event. Only commands can be refused (R153, R126: inbound data is never refused). -/
def decode : Event → Except DecodeError Instr
  | .command t => decodeCommand t
  | .serRx b => .ok (decodeSerRx b)
  | .radRx f => .ok (.radRx f)

/-- The command a pseudo-instruction expands to (R92); every other instruction is itself. -/
def Instr.core : Instr → Instr
  | .serBcast p => .serSend BCAST_MAC p
  | .radBcast p => .radSend BCAST_MAC p
  | i => i

/-- The operand bytes `d, n, p[0..]` of format FS (R71). -/
def payloadOperands (d : Byte) (p : List Byte) : List Byte := d :: BitVec.ofNat 8 p.length :: p

/-- The event an instruction is encoded as (R71, R72, R89, R91, R92). -/
def encode : Instr → Event
  | .nop => .command ⟨0x00#8, []⟩
  | .regRead r => .command ⟨0x01#8, [r]⟩
  | .tblLookup t m => .command ⟨0x10#8, [t, m]⟩
  | .tblContains t role v => .command ⟨0x11#8, [t, role, v]⟩
  | .tblRead t k => .command ⟨0x12#8, [t, k]⟩
  | .radSend d p => .command ⟨0x20#8, payloadOperands d p⟩
  | .radReinit => .command ⟨0x21#8, []⟩
  | .serSend d p => .command ⟨0x30#8, payloadOperands d p⟩
  | .serRedraw => .command ⟨0x31#8, []⟩
  | .serBcast p => .command ⟨0x30#8, payloadOperands BCAST_MAC p⟩
  | .radBcast p => .command ⟨0x20#8, payloadOperands BCAST_MAC p⟩
  | .serRxPreamble => .serRx PREAMBLE
  | .serRxEscape => .serRx ESC
  | .serRxData b => .serRx b
  | .radRx f => .radRx f

/-! ### Words of the opcode table

The table numbers the bits of a two-byte row with `C[0]` in bits 15:8, so a word of `k` bytes is read with its first
byte most significant (log 12). The table's words do not say on which port they arrive: the first of the command port, the
byte stream and the transceiver whose decoder takes the bytes is the one meant. -/

/-- The `k` bytes of a number, most significant first. -/
def bytesOfWord : Nat → Nat → List Byte
  | 0, _ => []
  | k + 1, w => BitVec.ofNat 8 (w >>> (8 * k)) :: bytesOfWord k w

/-- How many operand bytes a transaction of the format has, given the operand bytes the word holds. -/
def operandCount : CmdFormat → List Byte → Nat
  | .F0, _ => 0
  | .F1, _ => 1
  | .F2, _ => 2
  | .F3, _ => 3
  | .FS, _ :: n :: _ => 2 + n.toNat
  | .FS, _ => 2

/-- The operand bytes the word holds, and zeros for those it does not. -/
def withZeroOperands (fmt : CmdFormat) (xs : List Byte) : List Byte :=
  xs ++ List.replicate (operandCount fmt xs - xs.length) 0x00#8

/-- The transaction of a word, where its bytes are one the command port's decoder takes. -/
def tableCommand : List Byte → Option Transaction
  | [] => none
  | op :: xs =>
    match findOpcode op with
    | none => none
    | some row =>
      let t : Transaction := ⟨op, withZeroOperands row.format xs⟩
      if formatFits row.format t.operands then some t else none

/-- The event of a word of the opcode table. -/
def tableEvent (nbits w : Nat) : Event :=
  let bs := bytesOfWord ((nbits + 7) / 8) w
  match tableCommand bs with
  | some t => .command t
  | none =>
    match bs with
    | [b] => .serRx b
    | _ => .radRx bs

/-- The instruction the decoder reads from a word of the opcode table. -/
def decodeTableWord (nbits w : Nat) : Option Instr :=
  match decode (tableEvent nbits w) with
  | .ok i => some i
  | .error _ => none

end Sys2Proof
end

