-- ==== Sys2Proof/Machine/Address.lean ====
section
/-!
DEFINITION. Physical addresses and draws as values (spec/30_encoding.md R82, R90).
-/
namespace Sys2Proof.Machine

/-- `PhysAddr(phy) = PREFIX || NETID || phy` (R82). -/
def physAddr (c : Config) (phy : Byte) : PhysAddress := (c.phyPrefix ++ c.netId ++ phy : BitVec (32 + 16 + 8))

/-- The byte a draw stands for, in [1,255] (R90). -/
def drawByte (d : Draw) : Byte := BitVec.ofNat 8 (d.val + 1)

end Sys2Proof.Machine
end

