-- ==== Sys2Proof/Machine/State.lean ====
section
/-!
DEFINITION. The state of MNL2 (spec/10_state.md R20: the architectural state is exactly the fields `radSelf` to `sdBuf`),
its parameters, the interface to its collaborators as plain data, the reasons a step can stop, and the state after reset.
-/
namespace Sys2Proof.Machine

/-- `SD_STATE` (R26). -/
inductive DecoderState
  | collecting
  | dropping
  deriving DecidableEq, Repr

/-- A valid slot of an address table (R23, R24). -/
structure Slot where
  mac : Byte
  phy : Byte
  deriving DecidableEq, Repr

/-- An address table: its valid slots in slot order; `T.count` is the length. Slots at or above the count hold no value
(R23, U4). DESIGN CHOICE, safe (log 13). -/
abbrev Table := List Slot

/-- The frame buffer `SD_BUF` (R30) as (index, byte) pairs: indices strictly rising, no byte equal to what an unlisted
index reads as. -/
abbrev Buffer := List Host.Cell

/-- What MNL2 waits for: the ports that accept its outputs (R57), and the random source that answers its draws (R90). -/
inductive Port
  /-- the response side of the command port (R76) -/
  | response
  /-- the byte stream (R85) -/
  | stream
  /-- the transceiver (R86) -/
  | radio
  /-- the Layer-3 sink (R84) -/
  | layer3
  /-- the observability hook (R88) -/
  | hook
  /-- the random source (R90) -/
  | random
  deriving DecidableEq, Repr

/-- The output events (R76, R84, R85, R86, R88). -/
inductive Output
  /-- `Radio.OpenChannel(idx, addr)` (R86) -/
  | openChannel (idx : Nat) (addr : PhysAddress)
  /-- `Radio.StartListening` (R86) -/
  | startListening
  /-- `Radio.StopListening` (R86) -/
  | stopListening
  /-- `Radio.WriteFrame(addr, frame, ack)` (R86) -/
  | writeFrame (addr : PhysAddress) (frame : List Byte) (ack : Bool)
  /-- `Stream.WriteByte(b)` (R85) -/
  | writeByte (b : Byte)
  /-- `L3.Deliver(payload, ifid, srcMac)` (R84) -/
  | deliver (payload : List Byte) (ifid : Byte) (srcMac : Byte)
  /-- `Hook.SerCrcFail` (R88) -/
  | serCrcFail
  /-- the response of a command, `[status] ++ result` (R76) -/
  | response (bytes : List Byte)
  deriving DecidableEq, Repr

/-- How many more outputs each port accepts (for `random`: how many more draws are answered) before it never accepts
again; `none` is no limit (U6, R212, R241). DESIGN CHOICE, safe (log 7). -/
structure Accepts where
  response : Option Nat
  stream : Option Nat
  radio : Option Nat
  layer3 : Option Nat
  hook : Option Nat
  random : Option Nat
  deriving DecidableEq, Repr

/-- Every port accepts every output: the duty R212 gives the collaborators. -/
def Accepts.unlimited : Accepts := ⟨none, none, none, none, none, none⟩

/-- The whole machine. -/
structure State where
  /-- the parameters (R6); constants of the instance, R35 -/
  cfg : Config
  /-- `RAD_SELF` (R21) -/
  radSelf : Byte
  /-- `SER_SELF` (R22) -/
  serSelf : Byte
  /-- `DC`, the DestinationCache (R23) -/
  dc : Table
  /-- `RP`, the ReplyPipeTable (R24) -/
  rp : Table
  /-- `SD_STATE` (R26) -/
  sdState : DecoderState
  /-- `SD_ESC` (R27) -/
  sdEsc : Bool
  /-- `SD_POS` (R28) -/
  sdPos : Half
  /-- `SD_CRCHI` (R29) -/
  sdCrcHi : Byte
  /-- `SD_BUF` (R30) -/
  sdBuf : Buffer
  /-- pending command transactions, oldest first (R207) -/
  cmdIn : List Transaction
  /-- pending raw bytes of the stream, oldest first (R207) -/
  serIn : List Byte
  /-- pending inbound radio frames, oldest first (R207) -/
  radIn : List (List Byte)
  /-- the model's own: which source is taken next when the choice is open, as data (R207, U5; log 6) -/
  arb : List Source
  /-- the model's own: counter of the free value `Config.freeArb` (log 6) -/
  arbCount : Nat
  /-- the model's own: the next answers of the random source, as data (R90, U2; log 2) -/
  draws : List Draw
  /-- the model's own: counter of the free value `Config.freeDraw` (log 2) -/
  drawCount : Nat
  /-- the model's own: what the collaborators still accept (U6; log 7) -/
  accepts : Accepts
  /-- the port MNL2 waits for in the middle of an event and that never accepts (R241) -/
  stalled : Option Port
  /-- the reset input (R230): `some n` is a reset of the event under way once `n` more handshakes (outputs accepted, draws
  answered) are done; between events, any `some n` is a reset now (log 8) -/
  resetIn : Option Nat
  /-- the resets the platform will assert (R230), one entry for each of the next units of work (an event taken, a reset
  sequence) in order: `some n` resets that unit once `n` of its handshakes are done, or right after it where it has no
  more than `n`; `none`, and no entry, leaves it alone (log 8) -/
  resets : List (Option Nat)
  /-- the event history, in emission order (R57) -/
  out : List Output
  deriving DecidableEq, Repr

/-- Why the machine stops. -/
inductive Fault
  /-- An access to `SD_BUF` at an index `>= SER_MAX` (R51: "a model that meets one faults"). Raised by `memRead` and
  `memWrite` only. Safe, and no run meets it (R52). -/
  | sdBufRange
  deriving DecidableEq, Repr

/-- Why an event has no meaning. -/
inductive Refusal
  /-- Raised by `exec` for an instruction that has no meaning yet, by its mnemonic; none is left. Safe. -/
  | notModelled (mnemonic : String)
  deriving DecidableEq, Repr

/-- The outputs of the reset sequence (R232 step 1, R121). -/
def State.resetOutputs (c : Config) (radSelf : Byte) : List Output :=
  [.openChannel 0 (physAddr c BCAST_PHY), .openChannel 1 (physAddr c radSelf), .startListening]

/-- The machine right after the reset sequence of power-on (R232, R37). `RAD_SELF` and `SER_SELF` hold the first two
draws, which are free values (log 3); the parameters are the test configuration (log 1); no event is pending. -/
def State.reset : State where
  cfg := Config.test
  radSelf := drawByte (Config.freeDraw 0)
  serSelf := drawByte (Config.freeDraw 1)
  dc := []
  rp := []
  sdState := .dropping
  sdEsc := false
  sdPos := 0#16
  sdCrcHi := 0x00#8
  sdBuf := []
  cmdIn := []
  serIn := []
  radIn := []
  arb := []
  arbCount := 0
  draws := []
  drawCount := 2
  accepts := Accepts.unlimited
  stalled := none
  resetIn := none
  resets := []
  out := State.resetOutputs Config.test (drawByte (Config.freeDraw 0))

/-- The outcome of a meaning. -/
abbrev Result := Host.Outcome State Fault Refusal

end Sys2Proof.Machine
end

