-- ==== Sys2Proof/Machine/Ops.lean ====
section
/-!
DEFINITION. The shared operations (spec/00_scope.md R10): `emit`, `draw`, `respond`, `raise Status`, `MemRead`, `MemWrite`,
taking the next input event, and what the outside world does to the machine.

An operation that may have to wait takes the rest of the event as its last argument and goes on with it only when the
port accepts: "the block does not go on until the port accepts it" (R10, R57). Where the port never accepts, the machine
keeps the hang as a state (R241); where the reset input comes first, the rest of the event is not performed (R230).
There is no exception to take and none to return from (R200).
-/
namespace Sys2Proof.Machine

/-! ### Ports -/

/-- What the port still accepts. -/
def Accepts.get (a : Accepts) : Port → Option Nat
  | .response => a.response
  | .stream => a.stream
  | .radio => a.radio
  | .layer3 => a.layer3
  | .hook => a.hook
  | .random => a.random

/-- The port has accepted one more. -/
def Accepts.use (a : Accepts) : Port → Accepts
  | .response => { a with response := a.response.map (· - 1) }
  | .stream => { a with stream := a.stream.map (· - 1) }
  | .radio => { a with radio := a.radio.map (· - 1) }
  | .layer3 => { a with layer3 := a.layer3.map (· - 1) }
  | .hook => { a with hook := a.hook.map (· - 1) }
  | .random => { a with random := a.random.map (· - 1) }

/-- The port of an output event (R76, R84, R85, R86, R88). -/
def outputPort : Output → Port
  | .openChannel _ _ => .radio
  | .startListening => .radio
  | .stopListening => .radio
  | .writeFrame _ _ _ => .radio
  | .writeByte _ => .stream
  | .deliver _ _ _ => .layer3
  | .serCrcFail => .hook
  | .response _ => .response

/-- The reset falls before the next handshake of the event under way (R230). -/
def State.resetDue (s : State) : Bool := s.resetIn == some 0

/-- The port never accepts again (R241). -/
def State.blocked (s : State) (p : Port) : Bool := s.accepts.get p == some 0

/-- The state in which the machine waits for a port in the middle of an event, for ever (R241). -/
def State.waitFor (s : State) (p : Port) : State := { s with stalled := some p }

/-- The state once the port has accepted the output: it stands at the end of the history (R57). -/
def State.emitted (s : State) (o : Output) : State :=
  { s with
    out := s.out ++ [o]
    accepts := s.accepts.use (outputPort o)
    resetIn := s.resetIn.map (· - 1) }

/-- `emit P.E(args)` and then the rest `k` of the event (R10, R57, R230, R241). -/
def emit (o : Output) (s : State) (k : State → Result) : Result :=
  if s.resetDue then .next s
  else if s.blocked (outputPort o) then .next (s.waitFor (outputPort o))
  else k (s.emitted o)

/-- Several outputs in order (R57). -/
def emitAll : List Output → State → (State → Result) → Result
  | [], s, k => k s
  | o :: os, s, k => emit o s (fun s' => emitAll os s' k)

/-! ### Draws -/

/-- The next answer of the random source: the one the state gives as data, else the free value (R90, U2; log 2). -/
def State.nextDraw (s : State) : Byte :=
  match s.draws with
  | d :: _ => drawByte d
  | [] => drawByte (Config.freeDraw s.drawCount)

/-- The state once the draw is answered. -/
def State.drawn (s : State) : State :=
  match s.draws with
  | _ :: ds => { s with draws := ds, accepts := s.accepts.use .random, resetIn := s.resetIn.map (· - 1) }
  | [] => { s with
      drawCount := s.drawCount + 1
      accepts := s.accepts.use .random
      resetIn := s.resetIn.map (· - 1) }

/-- `draw()` and then the rest `k` of the event (R10, R90; a source that never answers hangs the machine, R205). -/
def draw (s : State) (k : Byte → State → Result) : Result :=
  if s.resetDue then .next s
  else if s.blocked .random then .next (s.waitFor .random)
  else k s.nextDraw s.drawn

/-! ### Responses (R76, R201) -/

/-- The status codes of R76. -/
inductive Status
  | OK
  | ELEN
  | EBADOP
  | EFMT
  | EBADARG
  deriving DecidableEq, Repr

/-- The code of a status (R76). -/
def statusCode : Status → Byte
  | .OK => 0x00#8
  | .ELEN => 0x01#8
  | .EBADOP => 0x02#8
  | .EFMT => 0x03#8
  | .EBADARG => 0x04#8

/-- `respond(OK, result)`: it ends the command (R10, R76). -/
def respond (result : List Byte) (s : State) : Result :=
  emit (.response (statusCode .OK :: result)) s .next

/-- `raise Status(code)`: the response is the status alone and the command has no effect (R10, R201). -/
def raiseStatus (st : Status) (s : State) : Result :=
  emit (.response [statusCode st]) s .next

/-! ### The frame buffer (R51) -/

/-- What a byte of `SD_BUF` that is not listed reads as. DESIGN CHOICE, unsafe (log 4): U3 lets a model zero it. -/
def unwritten : Byte := 0x00#8

/-- The byte at an index. -/
def bufGet : Buffer → Nat → Byte
  | [], _ => unwritten
  | (j, w) :: m, i => if i = j then w else bufGet m i

/-- The buffer with one byte stored, in the canonical form. -/
def bufSet : Buffer → Nat → Byte → Buffer
  | [], i, v => if v = unwritten then [] else [(i, v)]
  | (j, w) :: m, i, v =>
    if i < j then (if v = unwritten then (j, w) :: m else (i, v) :: (j, w) :: m)
    else if i = j then (if v = unwritten then m else (i, v) :: m)
    else (j, w) :: bufSet m i v

/-- The canonical form: indices strictly rising, nothing listed that an unlisted index reads as. -/
abbrev Buffer.wf (m : Buffer) : Prop :=
  m.Pairwise (fun a b => a.1 < b.1) ∧ ∀ c ∈ m, c.2 ≠ unwritten

/-- `MemRead(i, 1)` (R51). -/
def memRead (i : Nat) (s : State) (k : Byte → Result) : Result :=
  if i < s.cfg.serMax then k (bufGet s.sdBuf i) else .fault .sdBufRange

/-- `SD_BUF[i .. i+n-1]` (R9, R51): the empty list, and no access, for n = 0. -/
def memReadList : Nat → Nat → State → (List Byte → Result) → Result
  | _, 0, _, k => k []
  | i, n + 1, s, k => memRead i s (fun b => memReadList (i + 1) n s (fun bs => k (b :: bs)))

/-- `MemWrite(i, 1, v)` (R51) and then the rest `k` of the event. -/
def memWrite (i : Nat) (v : Byte) (s : State) (k : State → Result) : Result :=
  if i < s.cfg.serMax then k { s with sdBuf := bufSet s.sdBuf i v } else .fault .sdBufRange

/-- A natural number's bytes as the byte list `[v[31:24], v[23:16], v[15:8], v[7:0]]` (R53, R191). -/
def wordBytes (v : Word) : List Byte :=
  [v.extractLsb' 24 8, v.extractLsb' 16 8, v.extractLsb' 8 8, v.extractLsb' 0 8]

/-! ### Input events (R207) -/

/-- The sources that have a pending event. -/
def State.pending (s : State) : List Source :=
  (if s.cmdIn.isEmpty then [] else [.command]) ++
  (if s.serIn.isEmpty then [] else [.stream]) ++
  (if s.radIn.isEmpty then [] else [.radio])

/-- The free choice among several pending sources (U5; log 6). -/
def freeChoice (n : Nat) (ps : List Source) (dflt : Source) : Source :=
  ps.getD (Config.freeArb n % ps.length) dflt

/-- The arbiter's choice among the pending sources, with the state that has used it up (R207, U5; log 6). With one pending
source there is nothing to choose; with several, the choice is the one the state gives as data where that source has a
pending event, and a free value otherwise. -/
def State.choose (s : State) : Option (Source × State) :=
  match s.pending with
  | [] => none
  | [p] => some (p, { s with arb := s.arb.tail })
  | p :: q :: ps =>
    match s.arb with
    | c :: cs =>
      if (p :: q :: ps).contains c then some (c, { s with arb := cs })
      else some (freeChoice s.arbCount (p :: q :: ps) p, { s with arb := cs, arbCount := s.arbCount + 1 })
    | [] => some (freeChoice s.arbCount (p :: q :: ps) p, { s with arbCount := s.arbCount + 1 })

/-- The state in which a unit of work begins, an event or a reset sequence: the platform's next reset entry is the one that
falls inside it (R230; log 8). -/
def State.begun (s : State) : State := { s with resetIn := s.resets.head?.join, resets := s.resets.tail }

/-- The oldest pending event of a source, with the state that no longer has it pending. -/
def State.takeFrom (s : State) : Source → Option (Event × State)
  | .command =>
    match s.cmdIn with
    | t :: ts => some (.command t, { s with cmdIn := ts })
    | [] => none
  | .stream =>
    match s.serIn with
    | b :: bs => some (.serRx b, { s with serIn := bs })
    | [] => none
  | .radio =>
    match s.radIn with
    | f :: fs => some (.radRx f, { s with radIn := fs })
    | [] => none

/-- The next input event MNL2 takes, with the state that has taken it; none when no event is pending. -/
def takeEvent (s : State) : Option (Event × State) :=
  match s.choose with
  | some (p, s') => s'.takeFrom p
  | none => none

/-! ### What the outside world does -/

/-- The source of an event. -/
def eventSource : Event → Source
  | .command _ => .command
  | .serRx _ => .stream
  | .radRx _ => .radio

/-- An event arrives at its source, after those already pending there (R207), and after those in the order of `arb`. -/
def offerEvent (e : Event) (s : State) : State :=
  match e with
  | .command t => { s with cmdIn := s.cmdIn ++ [t], arb := s.arb ++ [.command] }
  | .serRx b => { s with serIn := s.serIn ++ [b], arb := s.arb ++ [.stream] }
  | .radRx f => { s with radIn := s.radIn ++ [f], arb := s.arb ++ [.radio] }

/-- The random source is given its next answer (R90). -/
def offerDraw (d : Draw) (s : State) : State := { s with draws := s.draws ++ [d] }

/-- The platform asserts the reset input now, before the next event is taken, in a hang too (R230; log 8). -/
def assertReset (s : State) : State := { s with resetIn := some 0 }

/-- The platform settles what it does in the unit of work after those it has settled: `some n` is a reset once `n`
handshakes of it are done (R230; log 8). -/
def planReset (r : Option Nat) (s : State) : State := { s with resets := s.resets ++ [r] }

/-- The event is the one taken next: first at its source, chosen by the arbiter, the machine neither in reset nor
waiting, and no reset in it (log 12). -/
def presentEvent (e : Event) (s : State) : State :=
  match e with
  | .command t => { s with
      cmdIn := t :: s.cmdIn, arb := .command :: s.arb, stalled := none, resetIn := none,
      resets := none :: s.resets }
  | .serRx b => { s with
      serIn := b :: s.serIn, arb := .stream :: s.arb, stalled := none, resetIn := none,
      resets := none :: s.resets }
  | .radRx f => { s with
      radIn := f :: s.radIn, arb := .radio :: s.arb, stalled := none, resetIn := none,
      resets := none :: s.resets }

end Sys2Proof.Machine
end

