-- ==== Sys2Proof/Machine/Tables.lean ====
section
/-!
DEFINITION. The address tables (spec/40_address_tables.md): the primitives `lookup`, `tryInsert`, `contains`, `TableReset`.
-/
namespace Sys2Proof.Machine

/-- `lookup(T, mac)` (R101): the PHY of the first valid slot holding mac; `none` is the spec's `(false, 0)`. -/
def tblLookup : Table → Byte → Option Byte
  | [], _ => none
  | sl :: ts, mac => if sl.mac = mac then some sl.phy else tblLookup ts mac

/-- `tryInsert(T, mac, phy)` (R102): the result and the table after it. -/
def tblTryInsert (cap : Nat) (t : Table) (mac phy : Byte) : Bool × Table :=
  match tblLookup t mac with
  | some _ => (true, t)
  | none => if t.length = cap then (false, t) else (true, t ++ [⟨mac, phy⟩])

/-- The two roles of `contains` (R103). -/
inductive Role
  | MAC
  | PHY
  deriving DecidableEq, Repr

/-- `contains(T, v, role)` (R103). -/
def tblContains : Table → Byte → Role → Bool
  | [], _, _ => false
  | sl :: ts, v, .MAC => decide (sl.mac = v) || tblContains ts v .MAC
  | sl :: ts, v, .PHY => decide (sl.phy = v) || tblContains ts v .PHY

/-- `TableReset(T)` (R104). -/
def tableReset : Table := []

end Sys2Proof.Machine
end

