-- ==== Sys2Proof/Machine/Operands.lean ====
section
/-!
DEFINITION. The operand forms of the commands (spec/30_encoding.md R71, R74): the table selector `t`, the role, the slot
number `k`. A register number is read in Machine/Flags.lean. `none` is a reserved operand value: `EBADARG`.
-/
namespace Sys2Proof.Machine

/-- What the table selector names. -/
inductive TableSel
  | DC
  | RP
  deriving DecidableEq, Repr

/-- The table selector (R74): 0 is DC, 1 is RP. -/
def tableOperand (t : Byte) : Option TableSel :=
  if t = 0x00#8 then some .DC else if t = 0x01#8 then some .RP else none

/-- The role operand (R74): 0 is MAC, 1 is PHY. -/
def roleOperand (r : Byte) : Option Role :=
  if r = 0x00#8 then some .MAC else if r = 0x01#8 then some .PHY else none

/-- The table a selector names. -/
def State.table (s : State) : TableSel → Table
  | .DC => s.dc
  | .RP => s.rp

/-- `T_CAP` of a selector (40_address_tables.md section 1). -/
def tableCap (c : Config) : TableSel → Nat
  | .DC => c.dcCap
  | .RP => c.rpCap

end Sys2Proof.Machine
end

