-- ==== Sys2Proof/Machine/Flags.lean ====
section
/-!
DEFINITION. The register map (spec/10_state.md R31) and the decoder flags in `SER_STATUS` (R32).
-/
namespace Sys2Proof.Machine

/-- `DROP` of `SER_STATUS` (R32): the encoding of `SD_STATE` (R26). -/
def dropBit : DecoderState → BitVec 1
  | .collecting => 0#1
  | .dropping => 1#1

/-- `SER_STATUS` (R32): POS in [31:16], CRCHI in [15:8], zeros in [7:2], ESC in [1], DROP in [0]. -/
def serStatus (s : State) : Word :=
  (s.sdPos ++ s.sdCrcHi ++ 0#6 ++ BitVec.ofBool s.sdEsc ++ dropBit s.sdState : BitVec (16 + 8 + 6 + 1 + 1))

/-- A count or parameter in the low `w` bits of a register, the others 0 (R31). A value too large for its field shows its
low bits: DEDUCED, unsafe (log 16). -/
def field (w : Nat) (n : Nat) : Word := (BitVec.ofNat w n).setWidth 32

/-- `REG[r]` (R31); none for a reserved register number. -/
def readReg (r : Byte) (s : State) : Option Word :=
  match r.toNat with
  | 0x00 => some (s.radSelf.setWidth 32)
  | 0x01 => some (s.serSelf.setWidth 32)
  | 0x02 => some (field 9 s.dc.length)
  | 0x03 => some (field 9 s.rp.length)
  | 0x04 => some (serStatus s)
  | 0x05 => some (field 9 s.cfg.dcCap)
  | 0x06 => some (field 9 s.cfg.rpCap)
  | 0x07 => some (field 9 s.cfg.serMax)
  | 0x08 => some (field 8 s.cfg.radMax)
  | 0x09 => some (s.cfg.netId.setWidth 32)
  | 0x0A => some s.cfg.phyPrefix
  | 0x0B => some (field 9 s.cfg.allocTries)
  | 0x0C => some (field 8 s.cfg.nch)
  | 0x0D => some ((s.cfg.ifSerial ++ s.cfg.ifRadio : BitVec (8 + 8)).setWidth 32)
  | _ => none

end Sys2Proof.Machine
end

