-- ==== Sys2Proof/Machine/Control.lean ====
section
/-!
DEFINITION. The control commands (spec/43_control.md R190, R191) and the table read commands
(spec/40_address_tables.md R106 to R108). None writes state.
-/
namespace Sys2Proof.Machine

/-- `NOP` (R190). -/
def execNop (s : State) : Result := respond [] s

/-- `REG_READ r` (R191). -/
def execRegRead (r : Byte) (s : State) : Result :=
  match readReg r s with
  | some v => respond (wordBytes v) s
  | none => raiseStatus .EBADARG s

/-- The two result bytes of `TBL_LOOKUP` (R106). -/
def lookupResult : Option Byte → List Byte
  | some phy => [0x01#8, phy]
  | none => [0x00#8, 0x00#8]

/-- `TBL_LOOKUP t, m` (R106). -/
def execTblLookup (t m : Byte) (s : State) : Result :=
  match tableOperand t with
  | none => raiseStatus .EBADARG s
  | some sel => respond (lookupResult (tblLookup (s.table sel) m)) s

/-- `TBL_CONTAINS t, role, v` (R107). -/
def execTblContains (t role v : Byte) (s : State) : Result :=
  match tableOperand t, roleOperand role with
  | some sel, some r => respond [if tblContains (s.table sel) v r then 0x01#8 else 0x00#8] s
  | _, _ => raiseStatus .EBADARG s

/-- The three result bytes of `TBL_READ` (R108). -/
def slotResult : Option Slot → List Byte
  | some sl => [0x01#8, sl.mac, sl.phy]
  | none => [0x00#8, 0x00#8, 0x00#8]

/-- `TBL_READ t, k` (R108). -/
def execTblRead (t k : Byte) (s : State) : Result :=
  match tableOperand t with
  | none => raiseStatus .EBADARG s
  | some sel =>
    if tableCap s.cfg sel ≤ k.toNat then raiseStatus .EBADARG s
    else respond (slotResult ((s.table sel)[k.toNat]?)) s

end Sys2Proof.Machine
end

