-- ==== Sys2Proof/Machine/Radio.lean ====
section
/-!
DEFINITION. The radio pipe dispatcher (spec/41_radio_dispatcher.md).
-/
namespace Sys2Proof.Machine

/-- `RadioInit()` (R121) and then the rest `k`. -/
def radioInit (s : State) (k : State → Result) : Result :=
  draw s (fun d s =>
    emitAll [.openChannel 0 (physAddr s.cfg BCAST_PHY), .openChannel 1 (physAddr s.cfg d), .startListening]
      { s with radSelf := d, dc := tableReset, rp := tableReset } k)

/-- `RAD_REINIT` (R122). -/
def execRadReinit (s : State) : Result := radioInit s (respond [])

/-! ### Receive path -/

/-- The learning step (R124). -/
def learn (src reply : Byte) (s : State) : State :=
  if src = reply then s else { s with dc := (tblTryInsert s.cfg.dcCap s.dc src reply).2 }

/-- `RadRx(F)` (R123, R125, R126). -/
def execRadRx (f : List Byte) (s : State) : Result :=
  match f with
  | src :: reply :: p =>
    if s.cfg.radMax + 2 < f.length then .next s
    else emit (.deliver p s.cfg.ifRadio src) (learn src reply s) .next
  | _ => .next s

/-! ### Send path -/

/-- `Free(c)` (R132). -/
def freePhy (c : Byte) (s : State) : Bool :=
  c != s.radSelf
    && !tblContains s.dc c .MAC && !tblContains s.dc c .PHY
    && !tblContains s.rp c .MAC && !tblContains s.rp c .PHY

/-- `AllocPhy()` with `t` tries left (R131) and then the rest `k`; `none` is NONE. -/
def allocPhy : Nat → State → (Option Byte → State → Result) → Result
  | 0, s, k => k none s
  | t + 1, s, k => draw s (fun c s => if freePhy c s then k (some c) s else allocPhy t s k)

/-- Step 2 of `RAD_SEND` (R129): the physical destination and whether acknowledgement is requested. -/
def radPipe (d : Byte) (s : State) : PhysAddress × Bool :=
  if d = BCAST_MAC then (physAddr s.cfg BCAST_PHY, false)
  else
    match tblLookup s.dc d with
    | some p => (physAddr s.cfg p, true)
    | none => (physAddr s.cfg d, false)

/-- Step 3 of `RAD_SEND` (R130): the reply PHY, and then the rest `k`. -/
def radReply (d : Byte) (s : State) (k : Byte → State → Result) : Result :=
  if d = BCAST_MAC then k s.radSelf s
  else
    match tblLookup s.rp d with
    | some rp => k rp s
    | none =>
      if s.rp.length = s.cfg.rpCap then k s.radSelf s
      else
        allocPhy s.cfg.allocTries s (fun c s =>
          match c with
          | none => k s.radSelf s
          | some c =>
            emit (.openChannel (2 + s.rp.length) (physAddr s.cfg c))
              { s with rp := (tblTryInsert s.cfg.rpCap s.rp d c).2 } (k c))

/-- Step 4 of `RAD_SEND` (R133, R134). -/
def radTransmit (pipe : PhysAddress) (ack : Bool) (reply : Byte) (p : List Byte) (s : State) : Result :=
  emitAll [.stopListening, .writeFrame pipe (s.radSelf :: reply :: p) ack, .startListening] s (respond [])

/-- The send of R127, shared by `RAD_SEND` and `RAD_BCAST`. -/
def radSend (d : Byte) (p : List Byte) (s : State) : Result :=
  if s.cfg.radMax < p.length then raiseStatus .ELEN s
  else radReply d s (radTransmit (radPipe d s).1 (radPipe d s).2 · p)

/-- `RAD_SEND d, P` (R127). -/
def execRadSend (d : Byte) (p : List Byte) (s : State) : Result := radSend d p s

/-- `RAD_BCAST P` (R92): `RAD_SEND 0, P`. -/
def execRadBcast (p : List Byte) (s : State) : Result := radSend BCAST_MAC p s

end Sys2Proof.Machine
end

