-- ==== Sys2Proof/Machine/Wire.lean ====
section
/-!
DEFINITION. The CRC engine and the serial wire format (spec/42_serial_framer.md R150, R152; spec/30_encoding.md R77, R78).
-/
namespace Sys2Proof.Machine

/-- One bit of R150's loop. -/
def crcBit (c : Half) : Half := if c.msb then (c <<< 1) ^^^ CRC_POLY else c <<< 1

/-- R150's inner loop, `n` bits. -/
def crcBits : Nat → Half → Half
  | 0, c => c
  | n + 1, c => crcBits n (crcBit c)

/-- One byte of R150. -/
def crcByte (c : Half) (b : Byte) : Half := crcBits 8 (c ^^^ (b.setWidth 16 <<< 8))

/-- `CRC16(D)` (R150). -/
def crc16 (d : List Byte) : Half := d.foldl crcByte CRC_SEED

/-- The high byte `c[15:8]` of a CRC (R77). -/
def crcHigh (c : Half) : Byte := c.extractLsb' 8 8

/-- The low byte `c[7:0]` of a CRC (R77). -/
def crcLow (c : Half) : Byte := c.extractLsb' 0 8

/-- `Stuff(D)` (R152). -/
def stuff : List Byte → List Byte
  | [] => []
  | x :: xs =>
    if x = PREAMBLE ∨ x = ESC then ESC :: (x ^^^ XMASK) :: stuff xs
    else x :: stuff xs

/-- The logical record `R = [len(P), srcMac, destMac] ++ P` (R77). -/
def serRecord (src dst : Byte) (p : List Byte) : List Byte := BitVec.ofNat 8 p.length :: src :: dst :: p

/-- The logical record followed by its CRC, high byte first (R77). -/
def serLogical (src dst : Byte) (p : List Byte) : List Byte :=
  serRecord src dst p ++ [crcHigh (crc16 (serRecord src dst p)), crcLow (crc16 (serRecord src dst p))]

/-- The frame on the byte stream (R78). -/
def serWire (src dst : Byte) (p : List Byte) : List Byte := PREAMBLE :: stuff (serLogical src dst p)

end Sys2Proof.Machine
end

