-- ==== Sys2Proof/Machine/Serial.lean ====
section
/-!
DEFINITION. The serial framer (spec/42_serial_framer.md).
-/
namespace Sys2Proof.Machine

/-! ### Decoder (R163, by the class of the raw byte) -/

/-- A raw preamble byte (R154). -/
def execSerRxPreamble (s : State) : Result :=
  .next { s with sdPos := 0#16, sdEsc := false, sdState := .collecting }

/-- A raw escape byte (R155). -/
def execSerRxEscape (s : State) : Result := .next { s with sdEsc := true }

/-- The logical byte of a raw data byte (R156). -/
def logicalByte (b : Byte) (s : State) : Byte := if s.sdEsc then b ^^^ XMASK else b

/-- The position counter moves on by one (R162). It never reaches the end of its 16 bits (R28; log 14). -/
def nextPos (s : State) : State := { s with sdPos := s.sdPos + 1#16 }

/-- The filter of R158 turns the frame away, given its `payloadLen` and `destMac`. -/
def filterDrops (len dst : Byte) (s : State) : Bool :=
  decide (s.cfg.serPlMax < len.toNat) || (dst != s.serSelf && dst != BCAST_MAC)

/-- The decoder once the CRC low byte is evaluated (R160). -/
def endFrame (s : State) : State := { nextPos s with sdState := .dropping }

/-- The CRC low byte `x` of a frame of payload length `len` (R160). -/
def checkFrame (len : Nat) (x : Byte) (s : State) : Result :=
  memReadList 0 (len + 3) s (fun record =>
    if crc16 record = (s.sdCrcHi ++ x : BitVec (8 + 8)) then
      memReadList 3 len s (fun payload =>
        memRead 1 s (fun src =>
          emit (.deliver payload s.cfg.ifSerial src) s (fun s => .next (endFrame s))))
    else emit .serCrcFail s (fun s => .next (endFrame s)))

/-- A logical byte `x` at position 3 or more (R158 to R161). -/
def bodyByte (x : Byte) (s : State) : Result :=
  memRead 0 s (fun len =>
    memRead 2 s (fun dst =>
      if filterDrops len dst s then .next { s with sdState := .dropping }
      else if s.sdPos.toNat = len.toNat + 3 then .next (nextPos { s with sdCrcHi := x })
      else if s.sdPos.toNat = len.toNat + 4 then checkFrame len.toNat x s
      else memWrite s.sdPos.toNat x s (fun s => .next (nextPos s))))

/-- A logical byte `x` (R157, R161, R163). -/
def collectByte (x : Byte) (s : State) : Result :=
  match s.sdState with
  | .dropping => .next s
  | .collecting =>
    if s.sdPos.toNat ≤ 2 then memWrite s.sdPos.toNat x s (fun s => .next (nextPos s))
    else bodyByte x s

/-- A raw data byte (R156, then R157 to R162). -/
def execSerRxData (b : Byte) (s : State) : Result :=
  collectByte (logicalByte b s) { s with sdEsc := false }

/-! ### Encoder -/

/-- The send of R164, shared by `SER_SEND` and `SER_BCAST`; the limit is R165's. -/
def serSend (d : Byte) (p : List Byte) (s : State) : Result :=
  if s.cfg.serPlMax < p.length then raiseStatus .ELEN s
  else emitAll ((serWire s.serSelf d p).map .writeByte) s (respond [])

/-- `SER_SEND d, P` (R164). -/
def execSerSend (d : Byte) (p : List Byte) (s : State) : Result := serSend d p s

/-- `SER_BCAST P` (R92): `SER_SEND 0, P`. -/
def execSerBcast (p : List Byte) (s : State) : Result := serSend BCAST_MAC p s

/-- `SER_REDRAW` (R166). -/
def execSerRedraw (s : State) : Result := draw s (fun d s => respond [] { s with serSelf := d })

end Sys2Proof.Machine
end

