-- ==== Sys2Proof/Machine/Dispatch.lean ====
section
/-! DEFINITION. One arm per constructor of `Instr`: the meaning of each instruction. -/

namespace Sys2Proof.Machine

def exec (i : Instr) (s : State) : Host.Outcome State Fault Refusal :=
  match i with
  -- control (43_control.md)
  | .nop => Sys2Proof.Machine.execNop s
  | .regRead r => Sys2Proof.Machine.execRegRead r s
  -- address tables (40_address_tables.md)
  | .tblLookup t m => Sys2Proof.Machine.execTblLookup t m s
  | .tblContains t role v => Sys2Proof.Machine.execTblContains t role v s
  | .tblRead t k => Sys2Proof.Machine.execTblRead t k s
  -- radio pipe dispatcher (41_radio_dispatcher.md)
  | .radSend d p => Sys2Proof.Machine.execRadSend d p s
  | .radReinit => Sys2Proof.Machine.execRadReinit s
  -- serial framer, encoder (42_serial_framer.md)
  | .serSend d p => Sys2Proof.Machine.execSerSend d p s
  | .serRedraw => Sys2Proof.Machine.execSerRedraw s
  -- pseudo-instructions (30_encoding.md R92)
  | .serBcast p => Sys2Proof.Machine.execSerBcast p s
  | .radBcast p => Sys2Proof.Machine.execRadBcast p s
  -- inbound events (42_serial_framer.md R153, 41_radio_dispatcher.md R123)
  | .serRxPreamble => Sys2Proof.Machine.execSerRxPreamble s
  | .serRxEscape => Sys2Proof.Machine.execSerRxEscape s
  | .serRxData b => Sys2Proof.Machine.execSerRxData b s
  | .radRx f => Sys2Proof.Machine.execRadRx f s

end Sys2Proof.Machine
end

