-- ==== Sys2Proof/Machine/Reset.lean ====
section
/-!
DEFINITION. The reset input and the reset sequence (spec/70_reset_and_hazards.md R230, R232), and the answer to a
transaction that is no command (spec/43_control.md R193).
-/
namespace Sys2Proof.Machine

/-- Step 2 of the reset sequence (R232). The frame buffer's content after reset is unspecified (R37); the model zeroes it:
DESIGN CHOICE, unsafe (log 5). -/
def serialInit (s : State) : Result :=
  draw s (fun d s =>
    .next { s with
      serSelf := d, sdState := .dropping, sdEsc := false, sdPos := 0#16, sdCrcHi := 0x00#8, sdBuf := [] })

/-- The reset sequence (R232). The event the reset abandons is gone, and pending events stay pending (R230, R235; log 9). A
reset may fall inside the sequence too (R230), as inside an event. -/
def resetSequence (s : State) : Result := radioInit { s.begun with stalled := none } serialInit

/-- The reset sequence is what this step does: the reset input was asserted inside the unit of work before, which it cut
short or which had ended, or between events, or in a hang (R230; log 8). -/
def State.resetTaken (s : State) : Bool := s.resetIn.isSome

/-- The answer to a transaction that is no command (R193, R202). -/
def answerMalformed (e : DecodeError) (s : State) : Result :=
  match e with
  | .reservedOpcode => raiseStatus .EBADOP s
  | .malformedLength => raiseStatus .EFMT s

end Sys2Proof.Machine
end

