-- ==== Sys2Proof/Machine/Step.lean ====
section
/-!
DEFINITION. One step of MNL2: the reset input first, then a wait that never ends, then the next input event, handled as a
whole (spec/20_memory.md R56, spec/60_exceptions.md R207, spec/70_reset_and_hazards.md R230, R241).
-/
namespace Sys2Proof.Machine

/-- Handling one input event (R193 for a command, R153 and R123 for inbound data). -/
def handleEvent (e : Event) (s : State) : Result :=
  match decode e with
  | .ok i => exec i s
  | .error err => answerMalformed err s

/-- One step: a reset sequence, or an event taken from its source and handled, a reset inside it included (R230).
With nothing to take, MNL2 waits (R232), and a hang stays a hang (R241): the state stays as it is (log 10). -/
def step (s : State) : Host.Outcome State Fault Refusal :=
  if s.resetTaken then resetSequence s
  else
    match s.stalled with
    | some _ => .next s
    | none =>
      match takeEvent s with
      | none => .next s
      | some (e, s') => handleEvent e s'.begun

/-- The state whose next step takes the event of a word of the opcode table (log 12). -/
def State.withFetchWord (s : State) (nbits w : Nat) : State := presentEvent (tableEvent nbits w) s

end Sys2Proof.Machine
end

