-- ==== Sys2Proof/Machine/Assembler.lean ====
section
/-!
DEFINITION. The assembly syntax of spec/30_encoding.md R91 and R92 as lines already split into mnemonic and operands: a
number is a byte, a table is written DC or RP, a role MAC or PHY, a payload is a list of bytes or an ASCII string. The
character level (spaces, decimal or hexadecimal digits, quotes) is text and carries no meaning.
-/
namespace Sys2Proof.Machine

/-- A payload operand: `[b0, b1, ...]` or an ASCII string in double quotes. -/
inductive AsmPayload
  | bytes (bs : List Byte)
  | ascii (cs : List Char)
  deriving DecidableEq, Repr

/-- One line of assembly, and the lines for inbound events and draws that appear in test programs. -/
inductive AsmLine
  | nop
  | regRead (r : Byte)
  | tblLookup (t : TableSel) (m : Byte)
  | tblContains (t : TableSel) (role : Role) (v : Byte)
  | tblRead (t : TableSel) (k : Byte)
  | radSend (d : Byte) (p : AsmPayload)
  | radReinit
  | serSend (d : Byte) (p : AsmPayload)
  | serRedraw
  | serBcast (p : AsmPayload)
  | radBcast (p : AsmPayload)
  /-- `rx.ser b` -/
  | rxSer (b : Byte)
  /-- `rx.ser [b0, b1, ...]`: one event a byte -/
  | rxSerAll (bs : List Byte)
  /-- `rx.rad [b0, b1, ...]`: one frame -/
  | rxRad (f : List Byte)
  /-- `draw v` -/
  | draw (v : Draw)
  deriving DecidableEq, Repr

/-- The operand byte of a table name. -/
def asmTable : TableSel → Byte
  | .DC => 0x00#8
  | .RP => 0x01#8

/-- The operand byte of a role name. -/
def asmRole : Role → Byte
  | .MAC => 0x00#8
  | .PHY => 0x01#8

/-- The bytes of a payload operand. -/
def asmPayload : AsmPayload → List Byte
  | .bytes bs => bs
  | .ascii cs => cs.map (fun c => BitVec.ofNat 8 c.toNat)

/-- The instructions of a line, in order; none for a draw. -/
def asmInstrs : AsmLine → List Instr
  | .nop => [.nop]
  | .regRead r => [.regRead r]
  | .tblLookup t m => [.tblLookup (asmTable t) m]
  | .tblContains t role v => [.tblContains (asmTable t) (asmRole role) v]
  | .tblRead t k => [.tblRead (asmTable t) k]
  | .radSend d p => [.radSend d (asmPayload p)]
  | .radReinit => [.radReinit]
  | .serSend d p => [.serSend d (asmPayload p)]
  | .serRedraw => [.serRedraw]
  | .serBcast p => [.serBcast (asmPayload p)]
  | .radBcast p => [.radBcast (asmPayload p)]
  | .rxSer b => [decodeSerRx b]
  | .rxSerAll bs => bs.map decodeSerRx
  | .rxRad f => [.radRx f]
  | .draw _ => []

/-- The events a line assembles to. -/
def assemble (l : AsmLine) : List Event := (asmInstrs l).map encode

/-- A line of a program reaches the machine: its events arrive in order, its draw is given to the random source. -/
def offerLine (l : AsmLine) (s : State) : State :=
  match l with
  | .draw v => offerDraw v s
  | l => (assemble l).foldl (fun s e => offerEvent e s) s

end Sys2Proof.Machine
end

