-- ==== Sys2Proof/Safety.lean ====
section
/-!
DEFINITION. The terms claims use: a machine whose collaborators do their duty, the invariant of every run, what a run
of raw bytes does, what the history says about the transceiver.
-/
namespace Sys2Proof.Machine

/-- The collaborators accept every output and answer every draw (R212), no reset is asserted and MNL2 waits for no one. -/
structure State.Ready (s : State) : Prop where
  accepts : s.accepts = Accepts.unlimited
  resetIn : s.resetIn = none
  stalled : s.stalled = none

/-- The same machine before collaborators that accept everything, with no reset asserted. -/
def State.madeReady (s : State) : State :=
  { s with accepts := Accepts.unlimited, resetIn := none, stalled := none }

/-- The machine with an output at the end of its history. -/
def State.withOut (s : State) (os : List Output) : State := { s with out := s.out ++ os }

/-- No two valid slots hold the same MAC (R25). -/
def Table.macsDistinct (t : Table) : Prop := (t.map Slot.mac).Nodup

/-- No two valid slots hold the same PHY (for RP: R131, R132). -/
def Table.physDistinct (t : Table) : Prop := (t.map Slot.phy).Nodup

/-- The accepted part of a frame under way (R52): the length has passed the filter and the position is within the frame. -/
def State.FrameUnderWay (s : State) : Prop :=
  (bufGet s.sdBuf 0).toNat ≤ s.cfg.serPlMax ∧ s.sdPos.toNat ≤ (bufGet s.sdBuf 0).toNat + 4

/-- The invariant of every run. -/
structure State.Inv (s : State) : Prop where
  /-- the parameters are in range (R6) -/
  cfg : s.cfg.Valid
  /-- R21: `RAD_SELF` is in 1..255 -/
  radSelf : s.radSelf ≠ 0x00#8
  /-- R22: `SER_SELF` is in 1..255 -/
  serSelf : s.serSelf ≠ 0x00#8
  /-- R25(a) for DC -/
  dcCount : s.dc.length ≤ s.cfg.dcCap
  /-- R25(a) for RP -/
  rpCount : s.rp.length ≤ s.cfg.rpCap
  /-- R25(b) for DC -/
  dcMacs : Table.macsDistinct s.dc
  /-- R25(b) for RP -/
  rpMacs : Table.macsDistinct s.rp
  /-- RP is written for unicast destinations only (R130) -/
  rpMacNonzero : ∀ sl ∈ s.rp, sl.mac ≠ BCAST_MAC
  /-- an allocated PHY is never 0 (S2) and never `RAD_SELF` (R131) -/
  rpPhy : ∀ sl ∈ s.rp, sl.phy ≠ BCAST_PHY ∧ sl.phy ≠ s.radSelf
  /-- no PHY is allocated twice (R131) -/
  rpPhys : Table.physDistinct s.rp
  /-- `SD_BUF` is in canonical form -/
  bufWf : Buffer.wf s.sdBuf
  /-- `SD_BUF` has `SER_MAX` bytes (R30) -/
  bufRange : ∀ c ∈ s.sdBuf, c.1 < s.cfg.serMax
  /-- R28: `SD_POS` never exceeds `SER_MAX` -/
  pos : s.sdPos.toNat ≤ s.cfg.serMax
  /-- R52: beyond position 3 only an accepted frame is collected -/
  frame : s.sdState = .collecting → s.sdPos.toNat ≤ 3 ∨ s.FrameUnderWay

/-- The index holds a byte that the current frame has written (R30, R161): below `SD_POS`, and the length, the srcMac, the
destMac or a payload byte; the CRC bytes are not written. -/
def State.written (s : State) (j : Nat) : Prop :=
  j < s.sdPos.toNat ∧ (j ≤ 2 ∨ j < (bufGet s.sdBuf 0).toNat + 3)

/-- Raw bytes of the stream, one event after another (R91 `rx.ser [b0, b1, ...]`). -/
def feedBytes : List Byte → State → Result
  | [], s => .next s
  | b :: bs, s =>
    match exec (decodeSerRx b) s with
    | .next s' => feedBytes bs s'
    | .fault r => .fault r
    | .refused r => .refused r

/-- The address a receive channel was last opened with (R83, R86). -/
def lastOpened (idx : Nat) : List Output → Option PhysAddress
  | [] => none
  | o :: os =>
    match lastOpened idx os with
    | some a => some a
    | none =>
      match o with
      | .openChannel j a => if j = idx then some a else none
      | _ => none

/-- The receive channels are bound as R83 says. -/
structure State.ChannelsBound (s : State) : Prop where
  broadcast : lastOpened 0 s.out = some (physAddr s.cfg BCAST_PHY)
  self : lastOpened 1 s.out = some (physAddr s.cfg s.radSelf)
  reply : ∀ k sl, s.rp[k]? = some sl → lastOpened (2 + k) s.out = some (physAddr s.cfg sl.phy)

/-- The responses in a history. -/
def responsesOf (os : List Output) : List (List Byte) :=
  os.filterMap (fun o => match o with | .response bs => some bs | _ => none)

/-- The host command of an instruction (R72, R92); the four event classes are no command. -/
def isCommand : Instr → Bool
  | .serRxPreamble => false
  | .serRxEscape => false
  | .serRxData _ => false
  | .radRx _ => false
  | _ => true

/-- What the register map of R31 and R32 says a register shows, as a number; a count or parameter shows as many low bits
as its field has (log 16). -/
def regContent (s : State) : Nat → Nat
  | 0x00 => s.radSelf.toNat
  | 0x01 => s.serSelf.toNat
  | 0x02 => s.dc.length % 512
  | 0x03 => s.rp.length % 512
  | 0x04 => s.sdPos.toNat * 65536 + s.sdCrcHi.toNat * 256 + (if s.sdEsc then 2 else 0)
      + (if s.sdState = .dropping then 1 else 0)
  | 0x05 => s.cfg.dcCap % 512
  | 0x06 => s.cfg.rpCap % 512
  | 0x07 => s.cfg.serMax % 512
  | 0x08 => s.cfg.radMax % 256
  | 0x09 => s.cfg.netId.toNat
  | 0x0A => s.cfg.phyPrefix.toNat
  | 0x0B => s.cfg.allocTries % 512
  | 0x0C => s.cfg.nch % 256
  | 0x0D => s.cfg.ifSerial.toNat * 256 + s.cfg.ifRadio.toNat
  | _ => 0

/-- A logical byte is stored in `SD_BUF` (R161): before position 3, or in a frame that passes the filter (R158) at a
position that is no CRC byte's (R159, R160). -/
def storesByte (s : State) : Bool :=
  decide (s.sdState = .collecting) &&
    (decide (s.sdPos.toNat ≤ 2) ||
      (!filterDrops (bufGet s.sdBuf 0) (bufGet s.sdBuf 2) s &&
        decide (s.sdPos.toNat ≠ (bufGet s.sdBuf 0).toNat + 3) && decide (s.sdPos.toNat ≠ (bufGet s.sdBuf 0).toNat + 4)))

/-- The registers, tables, decoder state and frame buffer that R20 lists are the same, byte by byte. -/
structure SameEngine (s t : State) : Prop where
  radSelf : t.radSelf = s.radSelf
  serSelf : t.serSelf = s.serSelf
  dc : t.dc = s.dc
  rp : t.rp = s.rp
  sdState : t.sdState = s.sdState
  sdEsc : t.sdEsc = s.sdEsc
  sdPos : t.sdPos = s.sdPos
  sdCrcHi : t.sdCrcHi = s.sdCrcHi
  sdBuf : ∀ a, bufGet t.sdBuf a = bufGet s.sdBuf a

/-- The decoder state and frame buffer are the same, byte by byte. -/
structure SameDecoder (s t : State) : Prop where
  sdState : t.sdState = s.sdState
  sdEsc : t.sdEsc = s.sdEsc
  sdPos : t.sdPos = s.sdPos
  sdCrcHi : t.sdCrcHi = s.sdCrcHi
  sdBuf : ∀ a, bufGet t.sdBuf a = bufGet s.sdBuf a

/-- The self addresses and tables are the same. -/
structure SameAddresses (s t : State) : Prop where
  radSelf : t.radSelf = s.radSelf
  serSelf : t.serSelf = s.serSelf
  dc : t.dc = s.dc
  rp : t.rp = s.rp

end Sys2Proof.Machine
end

