-- ==== Sys2Proof/Certificates/Slice0/Obligations.lean ====
section
/-!
DEFINITION. The statements for the provers. Each docstring names the rules of spec/ it formalises. A statement over a state
`s` is a statement over every parameter value, every table content, every order of pending events and every sequence of draws:
all of these are fields of `s`, or free values.
-/
open Sys2Proof Sys2Proof.Machine

/-! ### Encoding -/

/-- 30_encoding.md R71, R72, R77, R89, R91, R92. The encoding of a well-formed instruction decodes to it, every operand at every value
the encoding admits; a pseudo-instruction decodes to the command it expands to. -/
def Obligations.DecodeOfEncodeIsTheInstruction : Prop :=
  ∀ i : Instr, i.wellFormed = true → decode (encode i) = .ok i.core

/-- 30_encoding.md R71 to R75, R89. What decodes is a well-formed core instruction whose encoding is the event itself: no
two events decode to one instruction and no byte of an event is dropped. -/
def Obligations.EncodeOfDecodeIsTheEvent : Prop :=
  ∀ (e : Event) (i : Instr), decode e = .ok i → i.wellFormed = true ∧ i.core = i ∧ encode i = e

/-- 30_encoding.md R72, R73, R74. The decoder refuses a transaction exactly where its opcode is none of the nine, and
then exactly where its length is not its format's. -/
def Obligations.DecodeRefusesReservedAndMalformed : Prop :=
  ∀ t : Transaction,
    (decode (.command t) = .error .reservedOpcode ↔
      t.opcode ∉ [0x00#8, 0x01#8, 0x10#8, 0x11#8, 0x12#8, 0x20#8, 0x21#8, 0x30#8, 0x31#8]) ∧
    (decode (.command t) = .error .malformedLength ↔
      (t.opcode ∈ [0x00#8, 0x21#8, 0x31#8] ∧ t.operands.length ≠ 0) ∨
      (t.opcode = 0x01#8 ∧ t.operands.length ≠ 1) ∨
      (t.opcode ∈ [0x10#8, 0x12#8] ∧ t.operands.length ≠ 2) ∨
      (t.opcode = 0x11#8 ∧ t.operands.length ≠ 3) ∨
      (t.opcode ∈ [0x20#8, 0x30#8] ∧ ¬ ∃ d n p, t.operands = d :: n :: p ∧ p.length = n.toNat))

/-- 30_encoding.md R72, R89, R91. Words written out from the spec's encodings decode to what they stand for. -/
def Obligations.SpecWordsDecode : Prop :=
  decode (.command ⟨0x00#8, []⟩) = .ok .nop ∧
  decode (.command ⟨0x01#8, [0x04#8]⟩) = .ok (.regRead 0x04#8) ∧
  decode (.command ⟨0x10#8, [0x00#8, 0x22#8]⟩) = .ok (.tblLookup 0x00#8 0x22#8) ∧
  decode (.command ⟨0x11#8, [0x01#8, 0x01#8, 0x40#8]⟩) = .ok (.tblContains 0x01#8 0x01#8 0x40#8) ∧
  decode (.command ⟨0x20#8, [0x22#8, 0x02#8, 0x68#8, 0x69#8]⟩) = .ok (.radSend 0x22#8 [0x68#8, 0x69#8]) ∧
  decode (.command ⟨0x30#8, [0x00#8, 0x01#8, 0x7E#8]⟩) = .ok (.serSend 0x00#8 [0x7E#8]) ∧
  decode (.serRx 0x7E#8) = .ok .serRxPreamble ∧
  decode (.serRx 0x41#8) = .ok (.serRxData 0x41#8)

/-! ### Steps and input events -/

/-- 43_control.md R193, 30_encoding.md R70, 20_memory.md R56. Outside reset and hang, the step takes the next event and handles it, in
the state without it, the platform's next reset entry falling inside it (log 8): it does exactly what the event's instruction
does, and it answers a transaction that is no command, with `EBADOP` for a reserved opcode and `EFMT` for a malformed length.
With no event pending the machine waits (log 10). -/
def Obligations.StepRunsTheDecodedInstruction : Prop :=
  (∀ s s' b e, s.resetTaken = false → s.stalled = none → takeEvent s = some (e, s') →
    b = { s' with resetIn := s.resets.head?.join, resets := s.resets.tail } →
    step s = handleEvent e b ∧
    (∀ i, decode e = .ok i → step s = exec i b) ∧
    (decode e = .error .reservedOpcode → step s = emit (.response [0x02#8]) b .next) ∧
    (decode e = .error .malformedLength → step s = emit (.response [0x03#8]) b .next)) ∧
  (∀ s, s.resetTaken = false → s.stalled = none → takeEvent s = none → step s = .next s)

/-- 60_exceptions.md R207. Every order among the sources is possible: for each source with a pending event there is an
arbiter's choice under which its oldest event is the one taken, and taking it removes that event and nothing else. -/
def Obligations.AnyPendingSourceMayBeTakenNext : Prop :=
  (∀ s t ts cs, s.cmdIn = t :: ts → s.arb = .command :: cs →
    takeEvent s = some (.command t, { s with cmdIn := ts, arb := cs })) ∧
  (∀ s b bs cs, s.serIn = b :: bs → s.arb = .stream :: cs →
    takeEvent s = some (.serRx b, { s with serIn := bs, arb := cs })) ∧
  (∀ s f fs cs, s.radIn = f :: fs → s.arb = .radio :: cs →
    takeEvent s = some (.radRx f, { s with radIn := fs, arb := cs }))

/-- 60_exceptions.md R207. Whatever the choice, an event that is taken is the oldest of its source; it is no longer
pending, and nothing else changes but the arbiter's own fields; and an event is taken whenever one is pending. -/
def Obligations.EventsAreTakenInArrivalOrder : Prop :=
  ∀ s : State,
    (takeEvent s = none → s.cmdIn = [] ∧ s.serIn = [] ∧ s.radIn = []) ∧
    (∀ e s', takeEvent s = some (e, s') →
      (∃ t ts, e = .command t ∧ s.cmdIn = t :: ts ∧
        s' = { s with cmdIn := ts, arb := s'.arb, arbCount := s'.arbCount }) ∨
      (∃ b bs, e = .serRx b ∧ s.serIn = b :: bs ∧
        s' = { s with serIn := bs, arb := s'.arb, arbCount := s'.arbCount }) ∨
      (∃ f fs, e = .radRx f ∧ s.radIn = f :: fs ∧
        s' = { s with radIn := fs, arb := s'.arb, arbCount := s'.arbCount }))

/-- 30_encoding.md R73, 43_control.md R193 (1) and (2), 60_exceptions.md R202. A reserved opcode is answered with `EBADOP`
whatever the length, then a malformed length with `EFMT`; neither has any effect but its response. -/
def Obligations.MalformedTransactionsAreAnsweredWithoutEffect : Prop :=
  ∀ (s : State) (t : Transaction), s.Ready →
    (t.opcode ∉ [0x00#8, 0x01#8, 0x10#8, 0x11#8, 0x12#8, 0x20#8, 0x21#8, 0x30#8, 0x31#8] →
      handleEvent (.command t) s = .next (s.withOut [.response [0x02#8]])) ∧
    ((t.opcode ∈ [0x00#8, 0x21#8, 0x31#8] ∧ t.operands.length ≠ 0) ∨
      (t.opcode = 0x01#8 ∧ t.operands.length ≠ 1) ∨
      (t.opcode ∈ [0x10#8, 0x12#8] ∧ t.operands.length ≠ 2) ∨
      (t.opcode = 0x11#8 ∧ t.operands.length ≠ 3) ∨
      (t.opcode ∈ [0x20#8, 0x30#8] ∧ ¬ ∃ d n p, t.operands = d :: n :: p ∧ p.length = n.toNat) →
      handleEvent (.command t) s = .next (s.withOut [.response [0x03#8]]))

/-! ### Reset -/

/-- 10_state.md R37, 70_reset_and_hazards.md R232. What reset leaves: both self addresses in [1,255], empty tables, the
decoder in `Dropping` with no escape at position 0 and a zero CRC latch, `SER_STATUS` reading 0x00000001, and the three
outputs of the radio initialization. -/
def Obligations.ResetStateIsAsTheSpecLists : Prop :=
  State.reset.radSelf ≠ 0x00#8 ∧ State.reset.serSelf ≠ 0x00#8 ∧
  State.reset.dc = [] ∧ State.reset.rp = [] ∧
  State.reset.sdState = .dropping ∧ State.reset.sdEsc = false ∧ State.reset.sdPos = 0#16 ∧
  State.reset.sdCrcHi = 0x00#8 ∧ readReg 0x04#8 State.reset = some 0x00000001#32 ∧
  State.reset.out =
    [.openChannel 0 (physAddr State.reset.cfg 0x00#8),
     .openChannel 1 (physAddr State.reset.cfg State.reset.radSelf), .startListening]

/-- 70_reset_and_hazards.md R230, R232. From any state, with collaborators that accept and no second reset inside the sequence, a
step that takes the reset runs the reset sequence: the first draw to `RAD_SELF`, both tables empty, channels 0 and 1 and
listening, then the second draw to `SER_SELF` and the decoder's reset values; what was emitted stays emitted. That every event
pending before the reset stays pending is the model's reading (log 9: R235 says it of events that arrive during the sequence),
and that a reset asserted in a hang or between events is taken at the next step is too (log 8). -/
def Obligations.ResetSequenceRunsFromAnyState : Prop :=
  ∀ s : State, s.resetTaken = true → s.accepts = Accepts.unlimited → s.resets.head?.join = none →
    ∃ t, step s = .next t ∧
      t.radSelf = s.nextDraw ∧ t.serSelf = s.drawn.nextDraw ∧ t.dc = [] ∧ t.rp = [] ∧
      t.sdState = .dropping ∧ t.sdEsc = false ∧ t.sdPos = 0#16 ∧ t.sdCrcHi = 0x00#8 ∧
      t.out = s.out ++ [.openChannel 0 (physAddr s.cfg 0x00#8), .openChannel 1 (physAddr s.cfg s.nextDraw), .startListening] ∧
      t.cmdIn = s.cmdIn ∧ t.serIn = s.serIn ∧ t.radIn = s.radIn ∧ t.cfg = s.cfg ∧
      t.resetIn = none ∧ t.resets = s.resets.tail ∧ t.stalled = none ∧ t.accepts = Accepts.unlimited

/-- 30_encoding.md R90. A draw is never 0, and every value in [1,255] can be the next one. -/
def Obligations.DrawsRangeOverOneTo255 : Prop :=
  (∀ s : State, s.nextDraw ≠ 0x00#8) ∧
  (∀ (s : State) (b : Byte), b ≠ 0x00#8 → ∃ d : Draw, ({ s with draws := d :: s.draws } : State).nextDraw = b)

/-! ### Control and table read commands -/

/-- 43_control.md R190. `NOP` completes with `[00]` and no other effect; with any further byte it is answered with `EFMT`. -/
def Obligations.NopResponds : Prop :=
  ∀ s : State, s.Ready →
    exec .nop s = .next (s.withOut [.response [0x00#8]]) ∧
    (∀ xs : List Byte, xs ≠ [] → handleEvent (.command ⟨0x00#8, xs⟩) s = .next (s.withOut [.response [0x03#8]]))

/-- 43_control.md R191, 10_state.md R31, R32, 20_memory.md R53. `REG_READ r` completes: for r up to 0x0D with the register's
32-bit value, most significant byte first, for the others with `EBADARG`; it writes nothing. (A parameter or count too
large for its field shows its low bits: the model's reading, log 16.) -/
def Obligations.RegReadRespondsWithTheRegister : Prop :=
  ∀ (s : State) (r : Byte), s.Ready →
    (r.toNat ≤ 0x0D → ∃ b3 b2 b1 b0 : Byte,
      exec (.regRead r) s = .next (s.withOut [.response [0x00#8, b3, b2, b1, b0]]) ∧
      b3.toNat * 16777216 + b2.toNat * 65536 + b1.toNat * 256 + b0.toNat = regContent s r.toNat) ∧
    (0x0D < r.toNat → exec (.regRead r) s = .next (s.withOut [.response [0x04#8]]))

/-- 10_state.md R32. `SER_STATUS` holds DROP in bit 0, ESC in bit 1, zeros in [7:2], CRCHI in [15:8], POS in [31:16]; right
after reset it reads 0x00000001. -/
def Obligations.SerStatusBitsMirrorTheDecoder : Prop :=
  (∀ s : State, ∃ v : Word, readReg 0x04#8 s = some v ∧
    v.getLsbD 0 = decide (s.sdState = .dropping) ∧ v.getLsbD 1 = s.sdEsc ∧ v.extractLsb' 2 6 = 0#6 ∧
    v.extractLsb' 8 8 = s.sdCrcHi ∧ v.extractLsb' 16 16 = s.sdPos) ∧
  readReg 0x04#8 State.reset = some 0x00000001#32

/-- 40_address_tables.md R106, R101. `TBL_LOOKUP` completes: a hit gives `[00, 01, phy]` of the first slot holding the MAC,
a miss `[00, 00, 00]`, a reserved selector `[04]`, a transaction that is not 3 bytes `[03]`; it writes nothing. -/
def Obligations.TblLookupRespondsWithTheFirstMatch : Prop :=
  ∀ (s : State) (t m : Byte), s.Ready →
    (∀ tab : Table, (t = 0x00#8 ∧ tab = s.dc) ∨ (t = 0x01#8 ∧ tab = s.rp) →
      (∀ before sl after, tab = before ++ sl :: after → sl.mac = m → (∀ x ∈ before, x.mac ≠ m) →
        exec (.tblLookup t m) s = .next (s.withOut [.response [0x00#8, 0x01#8, sl.phy]])) ∧
      ((∀ x ∈ tab, x.mac ≠ m) →
        exec (.tblLookup t m) s = .next (s.withOut [.response [0x00#8, 0x00#8, 0x00#8]]))) ∧
    (1 < t.toNat → exec (.tblLookup t m) s = .next (s.withOut [.response [0x04#8]])) ∧
    (∀ xs : List Byte, xs.length ≠ 2 →
      handleEvent (.command ⟨0x10#8, xs⟩) s = .next (s.withOut [.response [0x03#8]]))

/-- 40_address_tables.md R107, R103. `TBL_CONTAINS` completes: 1 exactly where some valid slot holds the value in the role's
field, `[04]` for a reserved selector or role, `[03]` for a transaction that is not 4 bytes; it writes nothing. -/
def Obligations.TblContainsRespondsWithTheFlag : Prop :=
  ∀ (s : State) (t role v : Byte), s.Ready →
    (∀ tab : Table, (t = 0x00#8 ∧ tab = s.dc) ∨ (t = 0x01#8 ∧ tab = s.rp) →
      ∀ field : Slot → Byte, (role = 0x00#8 ∧ field = Slot.mac) ∨ (role = 0x01#8 ∧ field = Slot.phy) →
        ((∃ sl ∈ tab, field sl = v) →
          exec (.tblContains t role v) s = .next (s.withOut [.response [0x00#8, 0x01#8]])) ∧
        ((∀ sl ∈ tab, field sl ≠ v) →
          exec (.tblContains t role v) s = .next (s.withOut [.response [0x00#8, 0x00#8]]))) ∧
    (1 < t.toNat ∨ 1 < role.toNat → exec (.tblContains t role v) s = .next (s.withOut [.response [0x04#8]])) ∧
    (∀ xs : List Byte, xs.length ≠ 3 →
      handleEvent (.command ⟨0x11#8, xs⟩) s = .next (s.withOut [.response [0x03#8]]))

/-- 40_address_tables.md R108. `TBL_READ` completes: a valid slot gives `[00, 01, mac, phy]`, a slot at or above the count
`[00, 00, 00, 00]`, a reserved selector or a slot number at or above the capacity `[04]`, a transaction that is not 3 bytes
`[03]`; it writes nothing. -/
def Obligations.TblReadRespondsWithTheSlot : Prop :=
  ∀ (s : State) (t k : Byte), s.Ready →
    (∀ (tab : Table) (cap : Nat),
      (t = 0x00#8 ∧ tab = s.dc ∧ cap = s.cfg.dcCap) ∨ (t = 0x01#8 ∧ tab = s.rp ∧ cap = s.cfg.nch - 2) →
      (cap ≤ k.toNat → exec (.tblRead t k) s = .next (s.withOut [.response [0x04#8]])) ∧
      (∀ sl, k.toNat < cap → tab[k.toNat]? = some sl →
        exec (.tblRead t k) s = .next (s.withOut [.response [0x00#8, 0x01#8, sl.mac, sl.phy]])) ∧
      (k.toNat < cap → tab.length ≤ k.toNat →
        exec (.tblRead t k) s = .next (s.withOut [.response [0x00#8, 0x00#8, 0x00#8, 0x00#8]]))) ∧
    (1 < t.toNat → exec (.tblRead t k) s = .next (s.withOut [.response [0x04#8]])) ∧
    (∀ xs : List Byte, xs.length ≠ 2 →
      handleEvent (.command ⟨0x12#8, xs⟩) s = .next (s.withOut [.response [0x03#8]]))

/-! ### Address tables -/

/-- 40_address_tables.md R102, R105. After an insertion: a MAC already present keeps its first PHY; a fresh MAC below capacity is
found with the PHY given; at capacity with a fresh MAC nothing changes and the result is false; no other MAC is touched. -/
def Obligations.InsertionIsFirstWriterWins : Prop :=
  ∀ (cap : Nat) (t : Table) (mac phy : Byte),
    (∀ p, tblLookup t mac = some p → tblTryInsert cap t mac phy = (true, t)) ∧
    (tblLookup t mac = none → t.length = cap → tblTryInsert cap t mac phy = (false, t)) ∧
    (tblLookup t mac = none → t.length < cap →
      tblTryInsert cap t mac phy = (true, t ++ [⟨mac, phy⟩]) ∧
      tblLookup (tblTryInsert cap t mac phy).2 mac = some phy) ∧
    (∀ m, m ≠ mac → tblLookup (tblTryInsert cap t mac phy).2 m = tblLookup t m)

/-- 41_radio_dispatcher.md R132. A candidate is free exactly where it is not `RAD_SELF` and is no MAC and no PHY of either table; the
destination of the send is no part of the test; 0 is never a candidate. -/
def Obligations.FreeCandidateIsInNoTable : Prop :=
  (∀ (s : State) (c : Byte),
    freePhy c s = true ↔ c ≠ s.radSelf ∧ ∀ sl ∈ s.dc ++ s.rp, sl.mac ≠ c ∧ sl.phy ≠ c) ∧
  ∀ s : State, s.nextDraw ≠ 0x00#8

/-! ### Radio pipe dispatcher -/

/-- 41_radio_dispatcher.md R121, R122. `RAD_REINIT` completes: one draw into `RAD_SELF`, both tables empty, channel 0 on the
broadcast address, channel 1 on the node's own, listening, then `[00]`; the decoder and `SER_SELF` keep their values. With any
further byte it is answered with `EFMT`, and no draw is taken. -/
def Obligations.RadReinitRedrawsAndEmptiesTables : Prop :=
  ∀ s : State, s.Ready →
    (∀ xs : List Byte, xs ≠ [] → handleEvent (.command ⟨0x21#8, xs⟩) s = .next (s.withOut [.response [0x03#8]])) ∧
    exec .radReinit s = .next { s.drawn with
      radSelf := s.nextDraw
      dc := []
      rp := []
      out := s.out ++ [.openChannel 0 (physAddr s.cfg 0x00#8), .openChannel 1 (physAddr s.cfg s.nextDraw), .startListening,
        .response [0x00#8]] }

/-- 41_radio_dispatcher.md R123, R124, R125, R126. An inbound frame completes. Shorter than 2 or longer than `RAD_MAX + 2`: no effect.
Otherwise its payload is delivered with its srcMac and the radio interface id, whatever is learned; learned is (srcMac,
replyPhy) exactly where they differ, srcMac is not yet present and DC is below capacity. -/
def Obligations.RadRxLearnsAndDelivers : Prop :=
  ∀ (s : State), s.Ready →
    (∀ f : List Byte, f.length < 2 ∨ s.cfg.radMax + 2 < f.length → exec (.radRx f) s = .next s) ∧
    (∀ (src reply : Byte) (p : List Byte), p.length ≤ s.cfg.radMax →
      ((src = reply ∨ (∃ sl ∈ s.dc, sl.mac = src) ∨ s.dc.length = s.cfg.dcCap) →
        exec (.radRx (src :: reply :: p)) s = .next (s.withOut [.deliver p s.cfg.ifRadio src])) ∧
      (src ≠ reply → (∀ sl ∈ s.dc, sl.mac ≠ src) → s.dc.length < s.cfg.dcCap →
        exec (.radRx (src :: reply :: p)) s =
          .next (State.withOut { s with dc := s.dc ++ [⟨src, reply⟩] } [.deliver p s.cfg.ifRadio src])))

/-- 41_radio_dispatcher.md R129, R130, R133, R134. A broadcast send, as `RAD_SEND 0` and as `RAD_BCAST`, completes: broadcast pipe,
no acknowledgement, reply PHY `RAD_SELF`, stop, write, start, `[00]`; no table is touched and no draw taken. -/
def Obligations.RadSendBroadcastUsesTheSharedChannel : Prop :=
  ∀ (s : State) (p : List Byte), s.Ready → p.length ≤ s.cfg.radMax →
    exec (.radSend 0x00#8 p) s =
      .next (s.withOut [.stopListening, .writeFrame (physAddr s.cfg 0x00#8) (s.radSelf :: s.radSelf :: p) false,
        .startListening, .response [0x00#8]]) ∧
    exec (.radBcast p) s =
      .next (s.withOut [.stopListening, .writeFrame (physAddr s.cfg 0x00#8) (s.radSelf :: s.radSelf :: p) false,
        .startListening, .response [0x00#8]])

/-- 41_radio_dispatcher.md R129, R130. A unicast send to a peer that has a reply pipe, or with RP at capacity, completes
without a draw: pipe and acknowledgement by the DestinationCache, reply PHY the peer's own or `RAD_SELF`, no table written. -/
def Obligations.RadSendWithoutAllocation : Prop :=
  ∀ (s : State) (d : Byte) (p : List Byte) (pipe : PhysAddress) (ack : Bool) (reply : Byte),
    s.Ready → d ≠ 0x00#8 → p.length ≤ s.cfg.radMax →
    ((∃ q, tblLookup s.dc d = some q ∧ pipe = physAddr s.cfg q ∧ ack = true) ∨
      (tblLookup s.dc d = none ∧ pipe = physAddr s.cfg d ∧ ack = false)) →
    (tblLookup s.rp d = some reply ∨
      (tblLookup s.rp d = none ∧ s.rp.length = s.cfg.rpCap ∧ reply = s.radSelf)) →
    exec (.radSend d p) s =
      .next (s.withOut [.stopListening, .writeFrame pipe (s.radSelf :: reply :: p) ack, .startListening, .response [0x00#8]])

/-- 41_radio_dispatcher.md R130, R131, R132. A unicast send to a new peer with RP below capacity, the draws given: the first free
candidate among at most `ALLOC_TRIES` is inserted for the peer at slot `RP.count`, channel `2 + RP.count` is opened on it, and it
is the reply PHY; no further draw is taken. -/
def Obligations.RadSendAllocatesTheFirstFreeDraw : Prop :=
  ∀ (s : State) (d : Byte) (p : List Byte) (pipe : PhysAddress) (ack : Bool) (rejected rest : List Draw) (c : Draw),
    s.Ready → d ≠ 0x00#8 → p.length ≤ s.cfg.radMax →
    ((∃ q, tblLookup s.dc d = some q ∧ pipe = physAddr s.cfg q ∧ ack = true) ∨
      (tblLookup s.dc d = none ∧ pipe = physAddr s.cfg d ∧ ack = false)) →
    tblLookup s.rp d = none → s.rp.length < s.cfg.rpCap →
    s.draws = rejected ++ c :: rest → rejected.length < s.cfg.allocTries →
    (∀ x ∈ rejected, freePhy (drawByte x) s = false) → freePhy (drawByte c) s = true →
    exec (.radSend d p) s =
      .next (State.withOut { s with draws := rest, rp := s.rp ++ [⟨d, drawByte c⟩] }
        [.openChannel (2 + s.rp.length) (physAddr s.cfg (drawByte c)), .stopListening,
         .writeFrame pipe (s.radSelf :: drawByte c :: p) ack, .startListening, .response [0x00#8]])

/-- 41_radio_dispatcher.md R130, R131. The same send where `ALLOC_TRIES` draws are all rejected: NONE, so the shared channel, no
entry, no channel opened, and `[00]` all the same. -/
def Obligations.RadSendFallsBackWhenNoDrawIsFree : Prop :=
  ∀ (s : State) (d : Byte) (p : List Byte) (pipe : PhysAddress) (ack : Bool) (rejected rest : List Draw),
    s.Ready → d ≠ 0x00#8 → p.length ≤ s.cfg.radMax →
    ((∃ q, tblLookup s.dc d = some q ∧ pipe = physAddr s.cfg q ∧ ack = true) ∨
      (tblLookup s.dc d = none ∧ pipe = physAddr s.cfg d ∧ ack = false)) →
    tblLookup s.rp d = none → s.rp.length < s.cfg.rpCap →
    s.draws = rejected ++ rest → rejected.length = s.cfg.allocTries →
    (∀ x ∈ rejected, freePhy (drawByte x) s = false) →
    exec (.radSend d p) s =
      .next (State.withOut { s with draws := rest }
        [.stopListening, .writeFrame pipe (s.radSelf :: s.radSelf :: p) ack, .startListening, .response [0x00#8]])

/-- 41_radio_dispatcher.md R129 to R131, R133, 60_exceptions.md R204. Whatever the draws, free ones too, an accepted unicast send
completes with `OK` and ends with stop, write, start, on the pipe and with the acknowledgement R129 gives; RP keeps its slots and
gains at most the pair of the peer and a nonzero PHY that was free, which then is the frame's reply PHY, after channel
`2 + RP.count` is opened on it; where RP gains nothing the reply PHY is the peer's own or `RAD_SELF`. -/
def Obligations.RadSendCompletesForEveryDraw : Prop :=
  ∀ (s : State) (d : Byte) (p : List Byte) (pipe : PhysAddress) (ack : Bool),
    s.Ready → d ≠ 0x00#8 → p.length ≤ s.cfg.radMax →
    ((∃ q, tblLookup s.dc d = some q ∧ pipe = physAddr s.cfg q ∧ ack = true) ∨
      (tblLookup s.dc d = none ∧ pipe = physAddr s.cfg d ∧ ack = false)) →
    ∃ (t : State) (opened : List Output) (reply : Byte),
      exec (.radSend d p) s = .next t ∧
      t.out = s.out ++ opened ++
        [.stopListening, .writeFrame pipe (s.radSelf :: reply :: p) ack, .startListening, .response [0x00#8]] ∧
      ((t.rp = s.rp ∧ opened = [] ∧
          (tblLookup s.rp d = some reply ∨ (tblLookup s.rp d = none ∧ reply = s.radSelf))) ∨
        (reply ≠ 0x00#8 ∧ freePhy reply s = true ∧ s.rp.length ≠ s.cfg.rpCap ∧ tblLookup s.rp d = none ∧
          t.rp = s.rp ++ [⟨d, reply⟩] ∧ opened = [.openChannel (2 + s.rp.length) (physAddr s.cfg reply)]))

/-- 41_radio_dispatcher.md R128. The radio limit is `RAD_MAX`: a longer payload is answered with `ELEN`, with no draw, no table write
and no transceiver event; a payload of at most `RAD_MAX` bytes, that many and none at all included, ends with `[00]`. The same
for `RAD_BCAST` (30_encoding.md R92). -/
def Obligations.RadioPayloadLimitIsRadMax : Prop :=
  ∀ (s : State) (d : Byte) (p : List Byte), s.Ready →
    (s.cfg.radMax < p.length →
      exec (.radSend d p) s = .next (s.withOut [.response [0x01#8]]) ∧
      exec (.radBcast p) s = .next (s.withOut [.response [0x01#8]])) ∧
    (p.length ≤ s.cfg.radMax →
      (∃ t os, exec (.radSend d p) s = .next t ∧ t.out = os ++ [.response [0x00#8]]) ∧
      (∃ t os, exec (.radBcast p) s = .next t ∧ t.out = os ++ [.response [0x00#8]]))

/-! ### Serial framer -/

/-- 42_serial_framer.md R164, 30_encoding.md R77, R78, R92. `SER_SEND` and `SER_BCAST` complete: preamble, then the stuffed record and
CRC, then `[00]`; no state is written. A payload above `SER_MAX - 5` is answered with `ELEN`, a malformed transaction with
`EFMT`, and nothing is written to the stream. -/
def Obligations.SerSendWritesTheStuffedFrame : Prop :=
  ∀ (s : State), s.Ready →
    (∀ (d : Byte) (p r : List Byte) (c : Half), p.length ≤ s.cfg.serMax - 5 →
      r = [BitVec.ofNat 8 p.length, s.serSelf, d] ++ p → c = crc16 r →
      exec (.serSend d p) s =
        .next (s.withOut ((0x7E#8 :: stuff (r ++ [c.extractLsb' 8 8, c.extractLsb' 0 8])).map .writeByte
          ++ [.response [0x00#8]]))) ∧
    (∀ p : List Byte, exec (.serBcast p) s = exec (.serSend 0x00#8 p) s) ∧
    (∀ (d : Byte) (p : List Byte), s.cfg.serMax - 5 < p.length →
      exec (.serSend d p) s = .next (s.withOut [.response [0x01#8]])) ∧
    (∀ xs : List Byte, (¬ ∃ d n p, xs = d :: n :: p ∧ p.length = n.toNat) →
      handleEvent (.command ⟨0x30#8, xs⟩) s = .next (s.withOut [.response [0x03#8]]))

/-- 42_serial_framer.md R166. `SER_REDRAW` completes: one draw into `SER_SELF`, `[00]`, nothing else; with any further byte it is
answered with `EFMT`, and no draw is taken. -/
def Obligations.SerRedrawReplacesSerSelf : Prop :=
  ∀ s : State, s.Ready →
    (∀ xs : List Byte, xs ≠ [] → handleEvent (.command ⟨0x31#8, xs⟩) s = .next (s.withOut [.response [0x03#8]])) ∧
    exec .serRedraw s = .next (State.withOut { s.drawn with serSelf := s.nextDraw } [.response [0x00#8]])

/-- 42_serial_framer.md R154. A raw preamble byte completes in every state: position 0, no escape, `Collecting`, nothing else. -/
def Obligations.PreambleResynchronises : Prop :=
  ∀ s : State, exec .serRxPreamble s = .next { s with sdPos := 0#16, sdEsc := false, sdState := .collecting }

/-- 42_serial_framer.md R155. A raw escape byte completes in every state: the flag is set and nothing else changes; after one escape or
two, the raw byte 5E is the logical byte 7E. -/
def Obligations.EscapeSetsTheFlag : Prop :=
  ∀ s : State,
    exec .serRxEscape s = .next { s with sdEsc := true } ∧
    exec .serRxEscape { s with sdEsc := true } = .next { s with sdEsc := true } ∧
    logicalByte 0x5E#8 { s with sdEsc := true } = 0x7E#8

/-- 42_serial_framer.md R156, R157, R158, R159, R161, R162. A raw data byte that ends no frame completes. With x the byte, XORed with 0x20
where an escape is pending: discarded in `Dropping`; stored at positions 0 to 2; `Dropping` where the filter turns the frame
away; latched as the CRC high byte at position `payloadLen + 3`; stored at every other position but `payloadLen + 4`. The escape
is cleared in all. -/
def Obligations.DataByteIsUnescapedFilteredAndStored : Prop :=
  ∀ (s : State) (b x len dst : Byte), s.cfg.Valid →
    x = (if s.sdEsc then b ^^^ 0x20#8 else b) → len = bufGet s.sdBuf 0 → dst = bufGet s.sdBuf 2 →
    (s.sdState = .dropping → exec (.serRxData b) s = .next { s with sdEsc := false }) ∧
    (s.sdState = .collecting → s.sdPos.toNat ≤ 2 →
      exec (.serRxData b) s =
        .next { s with sdEsc := false, sdBuf := bufSet s.sdBuf s.sdPos.toNat x, sdPos := s.sdPos + 1#16 }) ∧
    (s.sdState = .collecting → 2 < s.sdPos.toNat →
      (s.cfg.serMax - 5 < len.toNat ∨ (dst ≠ s.serSelf ∧ dst ≠ 0x00#8) →
        exec (.serRxData b) s = .next { s with sdEsc := false, sdState := .dropping }) ∧
      (len.toNat ≤ s.cfg.serMax - 5 → dst = s.serSelf ∨ dst = 0x00#8 →
        (s.sdPos.toNat = len.toNat + 3 →
          exec (.serRxData b) s = .next { s with sdEsc := false, sdCrcHi := x, sdPos := s.sdPos + 1#16 }) ∧
        (s.sdPos.toNat ≠ len.toNat + 3 → s.sdPos.toNat ≠ len.toNat + 4 → s.sdPos.toNat < s.cfg.serMax →
          exec (.serRxData b) s =
            .next { s with sdEsc := false, sdBuf := bufSet s.sdBuf s.sdPos.toNat x, sdPos := s.sdPos + 1#16 })))

/-- 42_serial_framer.md R160, 30_encoding.md R84, R88. The CRC low byte completes: where the received CRC is the buffered record's,
the payload is delivered with the frame's srcMac and the serial interface id; otherwise only the hook event is emitted; then the position
moves on and the decoder drops until the next preamble. -/
def Obligations.CrcLowByteDeliversOrDiscards : Prop :=
  ∀ (s : State) (b x len dst : Byte), s.cfg.Valid → s.Ready →
    x = (if s.sdEsc then b ^^^ 0x20#8 else b) → len = bufGet s.sdBuf 0 → dst = bufGet s.sdBuf 2 →
    s.sdState = .collecting → s.sdPos.toNat = len.toNat + 4 →
    len.toNat ≤ s.cfg.serMax - 5 → dst = s.serSelf ∨ dst = 0x00#8 →
    (crc16 ((List.range (len.toNat + 3)).map (bufGet s.sdBuf)) = (s.sdCrcHi ++ x : BitVec (8 + 8)) →
      exec (.serRxData b) s =
        .next (State.withOut { s with sdEsc := false, sdPos := s.sdPos + 1#16, sdState := .dropping }
          [.deliver ((List.range len.toNat).map (fun j => bufGet s.sdBuf (3 + j))) s.cfg.ifSerial (bufGet s.sdBuf 1)])) ∧
    (crc16 ((List.range (len.toNat + 3)).map (bufGet s.sdBuf)) ≠ (s.sdCrcHi ++ x : BitVec (8 + 8)) →
      exec (.serRxData b) s =
        .next (State.withOut { s with sdEsc := false, sdPos := s.sdPos + 1#16, sdState := .dropping } [.serCrcFail]))

/-- 20_memory.md R51. `MemRead` gives the byte at its index and changes nothing, `MemWrite` stores its byte there, both only below
`SER_MAX`: at or above it the machine faults. A byte stored is the byte read back, at that index and no other, and the buffer
keeps its canonical form. -/
def Obligations.BufferReadAfterWrite : Prop :=
  (∀ (s : State) (i : Nat) (v : Byte) (kr : Byte → Result) (kw : State → Result),
    (i < s.cfg.serMax →
      memRead i s kr = kr (bufGet s.sdBuf i) ∧ memWrite i v s kw = kw { s with sdBuf := bufSet s.sdBuf i v }) ∧
    (s.cfg.serMax ≤ i → memRead i s kr = .fault .sdBufRange ∧ memWrite i v s kw = .fault .sdBufRange)) ∧
  (∀ (m : Buffer) (i : Nat) (v : Byte), Buffer.wf m →
    Buffer.wf (bufSet m i v) ∧ ∀ j, bufGet (bufSet m i v) j = if j = i then v else bufGet m j)

/-- 42_serial_framer.md R151 (K4), R150. The check value, and two of the values R150 lists. They rest on the CRC parameters the spec
takes from general knowledge (log 15). -/
def Obligations.CrcCheckValues : Prop :=
  crc16 [0x31#8, 0x32#8, 0x33#8, 0x34#8, 0x35#8, 0x36#8, 0x37#8, 0x38#8, 0x39#8] = 0x31C3#16 ∧
  crc16 [0x80#8] = 0x9188#16 ∧ crc16 [0xFF#8] = 0x1EF0#16

/-- 42_serial_framer.md R151 (K5). Every single-bit error in a record changes its CRC. It rests on the CRC polynomial the spec takes
from general knowledge (log 15). -/
def Obligations.CrcDetectsEverySingleBitError : Prop :=
  ∀ (front back : List Byte) (b : Byte) (n : Nat), n < 8 →
    crc16 (front ++ (b ^^^ BitVec.twoPow 8 n) :: back) ≠ crc16 (front ++ b :: back)

/-- 42_serial_framer.md R152, 30_encoding.md R78, R79. No raw preamble stands in a stuffed list, every escape is followed by a stuffed
byte (0x5E or 0x5D), and the length grows by one for each byte stuffed. -/
def Obligations.StuffedBytesHoldNoPreamble : Prop :=
  ∀ d : List Byte,
    0x7E#8 ∉ stuff d ∧
    (∀ front back, stuff d = front ++ 0x7D#8 :: back → ∃ x rest, back = x :: rest ∧ (x = 0x5E#8 ∨ x = 0x5D#8)) ∧
    (stuff d).length = d.length + d.countP (fun b => b == 0x7E#8 || b == 0x7D#8)

/-- 42_serial_framer.md R167. Round trip: the bytes an accepted `SER_SEND d, P` writes, fed to a decoder in any state of any run whose
`SER_SELF` is d, or with d = 0, deliver exactly P once, with the sender's `SER_SELF`. -/
def Obligations.SerialRoundTripDeliversThePayload : Prop :=
  ∀ (s t r : State) (d : Byte) (p ws : List Byte),
    s.Ready → exec (.serSend d p) s = .next t → t.out = s.out ++ ws.map .writeByte ++ [.response [0x00#8]] →
    r.Inv → r.Ready → r.cfg.serMax = s.cfg.serMax → (r.serSelf = d ∨ d = 0x00#8) →
    ∃ u, feedBytes ws r = .next u ∧ u.out = r.out ++ [.deliver p r.cfg.ifSerial s.serSelf]

/-- 42_serial_framer.md R167, R158. The same bytes fed to a decoder whose `SER_SELF` is another and with d nonzero: no output at all,
and nothing but the decoder's own state changes. -/
def Obligations.MisaddressedFrameIsSilent : Prop :=
  ∀ (s t r : State) (d : Byte) (p ws : List Byte),
    s.Ready → exec (.serSend d p) s = .next t → t.out = s.out ++ ws.map .writeByte ++ [.response [0x00#8]] →
    r.Inv → r.Ready → r.serSelf ≠ d → d ≠ 0x00#8 →
    ∃ u, feedBytes ws r = .next u ∧ u.out = r.out ∧ SameAddresses r u

/-! ### Frames: what an instruction leaves unchanged, in every state, hangs and resets included -/

/-- 43_control.md R190, R191, 40_address_tables.md R106 to R108, 42_serial_framer.md R164. The commands that read, and the serial sends,
leave every register, table, decoder flag and byte of the frame buffer as it was, and take no draw. -/
def Obligations.ReadCommandsAndSerialSendsWriteNoState : Prop :=
  ∀ (i : Instr) (s t : State),
    (i = .nop ∨ (∃ r, i = .regRead r) ∨ (∃ a b, i = .tblLookup a b) ∨ (∃ a b c, i = .tblContains a b c) ∨
      (∃ a b, i = .tblRead a b) ∨ (∃ d p, i = .serSend d p) ∨ (∃ p, i = .serBcast p)) →
    exec i s = .next t → SameEngine s t ∧ t.draws = s.draws ∧ t.drawCount = s.drawCount

/-- 41_radio_dispatcher.md R121, R127. A radio send (`RAD_SEND`, `RAD_BCAST`) changes no state but RP; `RAD_REINIT` none but `RAD_SELF`, DC
and RP: `SER_SELF`, the decoder and every byte of the frame buffer stay. -/
def Obligations.RadioCommandsLeaveTheSerialEngineAlone : Prop :=
  ∀ (i : Instr) (s t : State),
    ((∃ d p, i = .radSend d p) ∨ (∃ p, i = .radBcast p) ∨ i = .radReinit) → exec i s = .next t →
      SameDecoder s t ∧ t.serSelf = s.serSelf ∧ (i ≠ .radReinit → t.radSelf = s.radSelf ∧ t.dc = s.dc)

/-- 41_radio_dispatcher.md R123, 42_serial_framer.md R166. An inbound radio frame changes no state but DC, to which it may add one slot at
the end; `SER_REDRAW` none but `SER_SELF`. -/
def Obligations.RadRxAndSerRedrawFrame : Prop :=
  (∀ (f : List Byte) (s t : State), exec (.radRx f) s = .next t →
    SameDecoder s t ∧ t.radSelf = s.radSelf ∧ t.serSelf = s.serSelf ∧ t.rp = s.rp ∧
      (t.dc = s.dc ∨ ∃ sl, t.dc = s.dc ++ [sl])) ∧
  (∀ s t : State, exec .serRedraw s = .next t →
    SameDecoder s t ∧ t.radSelf = s.radSelf ∧ t.dc = s.dc ∧ t.rp = s.rp)

/-- 42_serial_framer.md R154, R155, R163. Raw bytes touch only the decoder: the control bytes no byte of the buffer and not the CRC latch,
the escape neither the state nor the position; a data byte stores at index `SD_POS`, and only where R161 stores, and latches a CRC
byte only where it stores none. -/
def Obligations.RawBytesTouchOnlyTheDecoder : Prop :=
  (∀ s t : State, exec .serRxPreamble s = .next t →
    SameAddresses s t ∧ t.sdCrcHi = s.sdCrcHi ∧ ∀ a, bufGet t.sdBuf a = bufGet s.sdBuf a) ∧
  (∀ s t : State, exec .serRxEscape s = .next t →
    SameAddresses s t ∧ t.sdCrcHi = s.sdCrcHi ∧ t.sdState = s.sdState ∧ t.sdPos = s.sdPos ∧
      ∀ a, bufGet t.sdBuf a = bufGet s.sdBuf a) ∧
  (∀ (b : Byte) (s t : State), exec (.serRxData b) s = .next t →
    SameAddresses s t ∧
    (∀ a, a ≠ s.sdPos.toNat → bufGet t.sdBuf a = bufGet s.sdBuf a) ∧
    (storesByte s = false → ∀ a, bufGet t.sdBuf a = bufGet s.sdBuf a) ∧
    (storesByte s = true → t.sdCrcHi = s.sdCrcHi ∧ t.sdState = s.sdState))

/-- 00_scope.md R6, 20_memory.md R56, R57. No instruction changes a parameter, a pending event or a planned reset, and none takes an output back: the
history only grows. -/
def Obligations.ExecKeepsParametersInputsAndHistory : Prop :=
  ∀ (i : Instr) (s t : State), exec i s = .next t →
    t.cfg = s.cfg ∧ t.cmdIn = s.cmdIn ∧ t.serIn = s.serIn ∧ t.radIn = s.radIn ∧ t.arb = s.arb ∧ t.resets = s.resets ∧
      s.out <+: t.out

/-- 40_address_tables.md R104. No slot of a table is ever removed, moved or changed, but by the reset of both tables together: every
instruction but `RAD_REINIT` only appends, and a step, reset included, appends or empties both. -/
def Obligations.TablesOnlyGrowUntilResetTogether : Prop :=
  (∀ (i : Instr) (s t : State), i ≠ .radReinit → exec i s = .next t → s.dc <+: t.dc ∧ s.rp <+: t.rp) ∧
  (∀ s t : State, step s = .next t → (s.dc <+: t.dc ∧ s.rp <+: t.rp) ∨ (t.dc = [] ∧ t.rp = []))

/-- 10_state.md R21, R22, R33. The self addresses are written by their own redraw alone: `RAD_SELF` by `RAD_REINIT`, `SER_SELF` by
`SER_REDRAW`, whatever else an instruction does. -/
def Obligations.SelfAddressesChangeOnlyByRedraw : Prop :=
  ∀ (i : Instr) (s t : State), exec i s = .next t →
    (i ≠ .radReinit → t.radSelf = s.radSelf) ∧ (i ≠ .serRedraw → t.serSelf = s.serSelf)

/-- 30_encoding.md R70, R76, 42_serial_framer.md R153. Every command is answered by exactly one response, its last output; an inbound
event by none. -/
def Obligations.OneResponsePerCommand : Prop :=
  ∀ (i : Instr) (s t : State), s.Ready → exec i s = .next t →
    (isCommand i = true → ∃ os bs, t.out = s.out ++ os ++ [.response bs] ∧ responsesOf os = []) ∧
    (isCommand i = false → responsesOf t.out = responsesOf s.out)

/-- 60_exceptions.md R201. A command, or a transaction that is none, whose response is a status other than `OK` has no effect but
that one byte. -/
def Obligations.FailedCommandsHaveNoEffect : Prop :=
  ∀ (s t : State) (os : List Output) (code : Byte) (rest : List Byte), s.Ready →
    t.out = os ++ [.response (code :: rest)] → code ≠ 0x00#8 →
    (∀ i, isCommand i = true → exec i s = .next t → t = s.withOut [.response [code]]) ∧
    (∀ tr, handleEvent (.command tr) s = .next t → t = s.withOut [.response [code]])

/-! ### Hangs and abandoned events -/

/-- 70_reset_and_hazards.md R241. Once a port that never accepts has stopped MNL2, no later event is taken, whatever is pending: every
step leaves the state as it is until reset. -/
def Obligations.HangStaysAHang : Prop :=
  ∀ (s : State) (p : Port) (n : Nat), s.stalled = some p → s.resetIn = none →
    Host.Core.run core n s = .next s

/-- 20_memory.md R57, 70_reset_and_hazards.md R230, R241. Whatever the ports accept and wherever a reset falls, an event emits a
beginning of the outputs it emits before collaborators that accept everything; and it ends as it does before those, or a reset
has come in it once its handshakes (outputs and draws) were done, or the machine waits for a port that never accepts. With no
reset in it, an event that has not ended has left the machine waiting: nothing is skipped. -/
def Obligations.CutShortEventsEmitAPrefix : Prop :=
  ∀ (i : Instr) (s t u : State), exec i s = .next t → exec i s.madeReady = .next u →
    t.out <+: u.out ∧
    (t.madeReady = u ∨
      (∃ n, s.resetIn = some n ∧ t.resetIn = some 0 ∧
        t.out.length + t.drawCount + s.draws.length = s.out.length + s.drawCount + t.draws.length + n) ∨
      (∃ p, t.stalled = some p ∧ t.blocked p = true)) ∧
    (s.resetIn = none → t.out ≠ u.out → ∃ p, t.stalled = some p ∧ t.blocked p = true)

/-- 70_reset_and_hazards.md R230. A reset that falls once n handshakes of an event are done lets it emit no more than n outputs,
none at all and no response for n = 0, and the next step runs the reset sequence: of an instruction, of an event taken from its
source, which is not pending any more and is not answered later, and of a reset sequence in which a further reset falls. -/
def Obligations.ResetAbandonsTheEvent : Prop :=
  (∀ (i : Instr) (s t : State) (n : Nat), s.resetIn = some n → exec i s = .next t →
    t.out.length ≤ s.out.length + n ∧ step t = resetSequence t) ∧
  (∀ (s s' t : State) (e : Event) (n : Nat) (rest : List (Option Nat)), s.resetTaken = false → s.stalled = none →
    takeEvent s = some (e, s') → s.resets = some n :: rest → step s = .next t →
    t.out.length ≤ s.out.length + n ∧ t.cmdIn = s'.cmdIn ∧ t.serIn = s'.serIn ∧ t.radIn = s'.radIn ∧
      t.resets = rest ∧ step t = resetSequence t) ∧
  (∀ (s t : State) (n : Nat) (rest : List (Option Nat)), s.resetTaken = true → s.resets = some n :: rest →
    step s = .next t → t.out.length ≤ s.out.length + n ∧ t.resets = rest ∧ step t = resetSequence t)

/-! ### Invariants and whole-machine claims -/

/-- 10_state.md R21, R22, R25, R28, 20_memory.md R52. The invariant holds right after reset. -/
def Obligations.ResetMeetsTheInvariant : Prop := State.reset.Inv

/-- 10_state.md R21, R22, R25, R28, 20_memory.md R52. Every step keeps the invariant: self addresses nonzero, tables within capacity and
without duplicate MACs, reply PHYs distinct, nonzero and never `RAD_SELF`, the frame buffer canonical and in range, the decoder's
position within the frame it accepted. -/
def Obligations.StepKeepsTheInvariant : Prop :=
  ∀ s t : State, s.Inv → step s = .next t → t.Inv

/-- 20_memory.md R52, 60_exceptions.md R205. From a state that meets the invariant no run faults, whatever its events, draws and
collaborators: every access to the frame buffer is in range. -/
def Obligations.NoRunFaults : Prop :=
  ∀ (s : State) (n : Nat), s.Inv → ∃ t, Host.Core.run core n s = .next t ∧ t.Inv

/-- 60_exceptions.md R205, R204, 42_serial_framer.md R168. Every instruction completes in every state that meets the invariant before
collaborators that accept, and leaves the machine ready for the next event. -/
def Obligations.EveryInstructionCompletes : Prop :=
  ∀ (i : Instr) (s : State), s.Inv → s.Ready → ∃ t, exec i s = .next t ∧ t.Ready

/-- 93_implementation_defined.md U3, 10_state.md R30. No output, register, table or flag depends on a byte of the frame buffer that the
current frame has not written: two machines that differ only in such bytes stay alike, in this event and, the same holding after it,
in all later ones. -/
def Obligations.UnwrittenBufferBytesAreNeverObserved : Prop :=
  ∀ (i : Instr) (s t : State) (m : Buffer), Buffer.wf s.sdBuf → Buffer.wf m →
    (∀ j, s.written j → bufGet m j = bufGet s.sdBuf j) → exec i s = .next t →
    ∃ m', Buffer.wf m' ∧ exec i { s with sdBuf := m } = .next { t with sdBuf := m' } ∧
      ∀ j, t.written j → bufGet m' j = bufGet t.sdBuf j

/-- 30_encoding.md R83, 41_radio_dispatcher.md R121, R130. Before collaborators that accept, every step keeps the receive channels bound as
R83 says, 0 to the broadcast address, 1 to the node's own, 2 + k to the PHY of RP slot k, each by the last `OpenChannel` of that
index in the history, or leaves a reset for the next step, whose sequence binds them anew; wherever resets fall. -/
def Obligations.StepKeepsChannelsBound : Prop :=
  ∀ s t : State, s.accepts = Accepts.unlimited → s.stalled = none →
    (s.resetTaken = true ∨ s.ChannelsBound) → step s = .next t → t.resetTaken = true ∨ t.ChannelsBound
end

