-- ==== Sys2Proof/Laws/Encoding.lean ====
section
/-!
SUPPORT. The decoder's small lemmas: the rows of the opcode map, the length test of format FS, the classes of raw bytes.
-/
namespace Sys2Proof

/-- The operand `n` of an encoded payload is its length (R71). -/
theorem payloadLength_toNat {p : List Byte} (h : payloadFits p = true) : (BitVec.ofNat 8 p.length).toNat = p.length := by
  have : p.length ≤ 255 := by simpa [payloadFits] using h
  rw [BitVec.toNat_ofNat]
  omega

/-- An encoded payload has the length its format asks for (R73). -/
theorem formatFits_payload {p : List Byte} (h : payloadFits p = true) (d : Byte) :
    formatFits .FS (payloadOperands d p) = true := by
  simp [formatFits, payloadOperands, payloadLength_toNat h]

theorem findOpcode_radSend : findOpcode 0x20#8 = some ⟨0x20#8, .RAD_SEND, .FS⟩ := by decide

theorem findOpcode_serSend : findOpcode 0x30#8 = some ⟨0x30#8, .SER_SEND, .FS⟩ := by decide

theorem decodeSerRx_data {b : Byte} (h : isDataByte b = true) : decodeSerRx b = .serRxData b := by
  simp [isDataByte] at h
  simp [decodeSerRx, h]

end Sys2Proof
end

