-- ==== Sys2Proof/Laws/State.lean ====
section
/-!
SUPPORT. One lemma per field per named update of the state, true by unfolding the update once, so that no later proof
unfolds a record update.
-/
namespace Sys2Proof.Machine

/-! ### An accepted output -/

@[simp] theorem State.emitted_cfg (s : State) (o : Output) : (s.emitted o).cfg = s.cfg := rfl
@[simp] theorem State.emitted_radSelf (s : State) (o : Output) : (s.emitted o).radSelf = s.radSelf := rfl
@[simp] theorem State.emitted_serSelf (s : State) (o : Output) : (s.emitted o).serSelf = s.serSelf := rfl
@[simp] theorem State.emitted_dc (s : State) (o : Output) : (s.emitted o).dc = s.dc := rfl
@[simp] theorem State.emitted_rp (s : State) (o : Output) : (s.emitted o).rp = s.rp := rfl
@[simp] theorem State.emitted_sdState (s : State) (o : Output) : (s.emitted o).sdState = s.sdState := rfl
@[simp] theorem State.emitted_sdEsc (s : State) (o : Output) : (s.emitted o).sdEsc = s.sdEsc := rfl
@[simp] theorem State.emitted_sdPos (s : State) (o : Output) : (s.emitted o).sdPos = s.sdPos := rfl
@[simp] theorem State.emitted_sdCrcHi (s : State) (o : Output) : (s.emitted o).sdCrcHi = s.sdCrcHi := rfl
@[simp] theorem State.emitted_sdBuf (s : State) (o : Output) : (s.emitted o).sdBuf = s.sdBuf := rfl
@[simp] theorem State.emitted_cmdIn (s : State) (o : Output) : (s.emitted o).cmdIn = s.cmdIn := rfl
@[simp] theorem State.emitted_serIn (s : State) (o : Output) : (s.emitted o).serIn = s.serIn := rfl
@[simp] theorem State.emitted_radIn (s : State) (o : Output) : (s.emitted o).radIn = s.radIn := rfl
@[simp] theorem State.emitted_arb (s : State) (o : Output) : (s.emitted o).arb = s.arb := rfl
@[simp] theorem State.emitted_arbCount (s : State) (o : Output) : (s.emitted o).arbCount = s.arbCount := rfl
@[simp] theorem State.emitted_draws (s : State) (o : Output) : (s.emitted o).draws = s.draws := rfl
@[simp] theorem State.emitted_drawCount (s : State) (o : Output) : (s.emitted o).drawCount = s.drawCount := rfl
@[simp] theorem State.emitted_accepts (s : State) (o : Output) : (s.emitted o).accepts = s.accepts.use (outputPort o) := rfl
@[simp] theorem State.emitted_stalled (s : State) (o : Output) : (s.emitted o).stalled = s.stalled := rfl
@[simp] theorem State.emitted_resetIn (s : State) (o : Output) : (s.emitted o).resetIn = s.resetIn.map (· - 1) := rfl
@[simp] theorem State.emitted_resets (s : State) (o : Output) : (s.emitted o).resets = s.resets := rfl
@[simp] theorem State.emitted_out (s : State) (o : Output) : (s.emitted o).out = s.out ++ [o] := rfl

/-! ### Waiting for a port -/

@[simp] theorem State.waitFor_cfg (s : State) (p : Port) : (s.waitFor p).cfg = s.cfg := rfl
@[simp] theorem State.waitFor_radSelf (s : State) (p : Port) : (s.waitFor p).radSelf = s.radSelf := rfl
@[simp] theorem State.waitFor_serSelf (s : State) (p : Port) : (s.waitFor p).serSelf = s.serSelf := rfl
@[simp] theorem State.waitFor_dc (s : State) (p : Port) : (s.waitFor p).dc = s.dc := rfl
@[simp] theorem State.waitFor_rp (s : State) (p : Port) : (s.waitFor p).rp = s.rp := rfl
@[simp] theorem State.waitFor_sdState (s : State) (p : Port) : (s.waitFor p).sdState = s.sdState := rfl
@[simp] theorem State.waitFor_sdEsc (s : State) (p : Port) : (s.waitFor p).sdEsc = s.sdEsc := rfl
@[simp] theorem State.waitFor_sdPos (s : State) (p : Port) : (s.waitFor p).sdPos = s.sdPos := rfl
@[simp] theorem State.waitFor_sdCrcHi (s : State) (p : Port) : (s.waitFor p).sdCrcHi = s.sdCrcHi := rfl
@[simp] theorem State.waitFor_sdBuf (s : State) (p : Port) : (s.waitFor p).sdBuf = s.sdBuf := rfl
@[simp] theorem State.waitFor_cmdIn (s : State) (p : Port) : (s.waitFor p).cmdIn = s.cmdIn := rfl
@[simp] theorem State.waitFor_serIn (s : State) (p : Port) : (s.waitFor p).serIn = s.serIn := rfl
@[simp] theorem State.waitFor_radIn (s : State) (p : Port) : (s.waitFor p).radIn = s.radIn := rfl
@[simp] theorem State.waitFor_arb (s : State) (p : Port) : (s.waitFor p).arb = s.arb := rfl
@[simp] theorem State.waitFor_arbCount (s : State) (p : Port) : (s.waitFor p).arbCount = s.arbCount := rfl
@[simp] theorem State.waitFor_draws (s : State) (p : Port) : (s.waitFor p).draws = s.draws := rfl
@[simp] theorem State.waitFor_drawCount (s : State) (p : Port) : (s.waitFor p).drawCount = s.drawCount := rfl
@[simp] theorem State.waitFor_accepts (s : State) (p : Port) : (s.waitFor p).accepts = s.accepts := rfl
@[simp] theorem State.waitFor_stalled (s : State) (p : Port) : (s.waitFor p).stalled = some p := rfl
@[simp] theorem State.waitFor_resetIn (s : State) (p : Port) : (s.waitFor p).resetIn = s.resetIn := rfl
@[simp] theorem State.waitFor_resets (s : State) (p : Port) : (s.waitFor p).resets = s.resets := rfl
@[simp] theorem State.waitFor_out (s : State) (p : Port) : (s.waitFor p).out = s.out := rfl

/-! ### An answered draw -/

@[simp] theorem State.drawn_cfg (s : State) : s.drawn.cfg = s.cfg := by unfold State.drawn; split <;> rfl
@[simp] theorem State.drawn_radSelf (s : State) : s.drawn.radSelf = s.radSelf := by unfold State.drawn; split <;> rfl
@[simp] theorem State.drawn_serSelf (s : State) : s.drawn.serSelf = s.serSelf := by unfold State.drawn; split <;> rfl
@[simp] theorem State.drawn_dc (s : State) : s.drawn.dc = s.dc := by unfold State.drawn; split <;> rfl
@[simp] theorem State.drawn_rp (s : State) : s.drawn.rp = s.rp := by unfold State.drawn; split <;> rfl
@[simp] theorem State.drawn_sdState (s : State) : s.drawn.sdState = s.sdState := by unfold State.drawn; split <;> rfl
@[simp] theorem State.drawn_sdEsc (s : State) : s.drawn.sdEsc = s.sdEsc := by unfold State.drawn; split <;> rfl
@[simp] theorem State.drawn_sdPos (s : State) : s.drawn.sdPos = s.sdPos := by unfold State.drawn; split <;> rfl
@[simp] theorem State.drawn_sdCrcHi (s : State) : s.drawn.sdCrcHi = s.sdCrcHi := by unfold State.drawn; split <;> rfl
@[simp] theorem State.drawn_sdBuf (s : State) : s.drawn.sdBuf = s.sdBuf := by unfold State.drawn; split <;> rfl
@[simp] theorem State.drawn_cmdIn (s : State) : s.drawn.cmdIn = s.cmdIn := by unfold State.drawn; split <;> rfl
@[simp] theorem State.drawn_serIn (s : State) : s.drawn.serIn = s.serIn := by unfold State.drawn; split <;> rfl
@[simp] theorem State.drawn_radIn (s : State) : s.drawn.radIn = s.radIn := by unfold State.drawn; split <;> rfl
@[simp] theorem State.drawn_arb (s : State) : s.drawn.arb = s.arb := by unfold State.drawn; split <;> rfl
@[simp] theorem State.drawn_arbCount (s : State) : s.drawn.arbCount = s.arbCount := by unfold State.drawn; split <;> rfl
@[simp] theorem State.drawn_accepts (s : State) : s.drawn.accepts = s.accepts.use .random := by unfold State.drawn; split <;> rfl
@[simp] theorem State.drawn_stalled (s : State) : s.drawn.stalled = s.stalled := by unfold State.drawn; split <;> rfl
@[simp] theorem State.drawn_resetIn (s : State) : s.drawn.resetIn = s.resetIn.map (· - 1) := by
  unfold State.drawn; split <;> rfl
@[simp] theorem State.drawn_resets (s : State) : s.drawn.resets = s.resets := by unfold State.drawn; split <;> rfl
@[simp] theorem State.drawn_out (s : State) : s.drawn.out = s.out := by unfold State.drawn; split <;> rfl

/-! ### More outputs in the history -/

@[simp] theorem State.withOut_cfg (s : State) (os : List Output) : (s.withOut os).cfg = s.cfg := rfl
@[simp] theorem State.withOut_radSelf (s : State) (os : List Output) : (s.withOut os).radSelf = s.radSelf := rfl
@[simp] theorem State.withOut_serSelf (s : State) (os : List Output) : (s.withOut os).serSelf = s.serSelf := rfl
@[simp] theorem State.withOut_dc (s : State) (os : List Output) : (s.withOut os).dc = s.dc := rfl
@[simp] theorem State.withOut_rp (s : State) (os : List Output) : (s.withOut os).rp = s.rp := rfl
@[simp] theorem State.withOut_sdState (s : State) (os : List Output) : (s.withOut os).sdState = s.sdState := rfl
@[simp] theorem State.withOut_sdEsc (s : State) (os : List Output) : (s.withOut os).sdEsc = s.sdEsc := rfl
@[simp] theorem State.withOut_sdPos (s : State) (os : List Output) : (s.withOut os).sdPos = s.sdPos := rfl
@[simp] theorem State.withOut_sdCrcHi (s : State) (os : List Output) : (s.withOut os).sdCrcHi = s.sdCrcHi := rfl
@[simp] theorem State.withOut_sdBuf (s : State) (os : List Output) : (s.withOut os).sdBuf = s.sdBuf := rfl
@[simp] theorem State.withOut_cmdIn (s : State) (os : List Output) : (s.withOut os).cmdIn = s.cmdIn := rfl
@[simp] theorem State.withOut_serIn (s : State) (os : List Output) : (s.withOut os).serIn = s.serIn := rfl
@[simp] theorem State.withOut_radIn (s : State) (os : List Output) : (s.withOut os).radIn = s.radIn := rfl
@[simp] theorem State.withOut_arb (s : State) (os : List Output) : (s.withOut os).arb = s.arb := rfl
@[simp] theorem State.withOut_arbCount (s : State) (os : List Output) : (s.withOut os).arbCount = s.arbCount := rfl
@[simp] theorem State.withOut_draws (s : State) (os : List Output) : (s.withOut os).draws = s.draws := rfl
@[simp] theorem State.withOut_drawCount (s : State) (os : List Output) : (s.withOut os).drawCount = s.drawCount := rfl
@[simp] theorem State.withOut_accepts (s : State) (os : List Output) : (s.withOut os).accepts = s.accepts := rfl
@[simp] theorem State.withOut_stalled (s : State) (os : List Output) : (s.withOut os).stalled = s.stalled := rfl
@[simp] theorem State.withOut_resetIn (s : State) (os : List Output) : (s.withOut os).resetIn = s.resetIn := rfl
@[simp] theorem State.withOut_resets (s : State) (os : List Output) : (s.withOut os).resets = s.resets := rfl
@[simp] theorem State.withOut_out (s : State) (os : List Output) : (s.withOut os).out = s.out ++ os := rfl

/-! ### A unit of work begins -/

@[simp] theorem State.begun_cfg (s : State) : s.begun.cfg = s.cfg := rfl
@[simp] theorem State.begun_radSelf (s : State) : s.begun.radSelf = s.radSelf := rfl
@[simp] theorem State.begun_serSelf (s : State) : s.begun.serSelf = s.serSelf := rfl
@[simp] theorem State.begun_dc (s : State) : s.begun.dc = s.dc := rfl
@[simp] theorem State.begun_rp (s : State) : s.begun.rp = s.rp := rfl
@[simp] theorem State.begun_sdState (s : State) : s.begun.sdState = s.sdState := rfl
@[simp] theorem State.begun_sdEsc (s : State) : s.begun.sdEsc = s.sdEsc := rfl
@[simp] theorem State.begun_sdPos (s : State) : s.begun.sdPos = s.sdPos := rfl
@[simp] theorem State.begun_sdCrcHi (s : State) : s.begun.sdCrcHi = s.sdCrcHi := rfl
@[simp] theorem State.begun_sdBuf (s : State) : s.begun.sdBuf = s.sdBuf := rfl
@[simp] theorem State.begun_cmdIn (s : State) : s.begun.cmdIn = s.cmdIn := rfl
@[simp] theorem State.begun_serIn (s : State) : s.begun.serIn = s.serIn := rfl
@[simp] theorem State.begun_radIn (s : State) : s.begun.radIn = s.radIn := rfl
@[simp] theorem State.begun_arb (s : State) : s.begun.arb = s.arb := rfl
@[simp] theorem State.begun_arbCount (s : State) : s.begun.arbCount = s.arbCount := rfl
@[simp] theorem State.begun_draws (s : State) : s.begun.draws = s.draws := rfl
@[simp] theorem State.begun_drawCount (s : State) : s.begun.drawCount = s.drawCount := rfl
@[simp] theorem State.begun_accepts (s : State) : s.begun.accepts = s.accepts := rfl
@[simp] theorem State.begun_stalled (s : State) : s.begun.stalled = s.stalled := rfl
@[simp] theorem State.begun_resetIn (s : State) : s.begun.resetIn = s.resets.head?.join := rfl
@[simp] theorem State.begun_resets (s : State) : s.begun.resets = s.resets.tail := rfl
@[simp] theorem State.begun_out (s : State) : s.begun.out = s.out := rfl

/-! ### Collaborators that accept everything -/

@[simp] theorem State.madeReady_cfg (s : State) : s.madeReady.cfg = s.cfg := rfl
@[simp] theorem State.madeReady_radSelf (s : State) : s.madeReady.radSelf = s.radSelf := rfl
@[simp] theorem State.madeReady_serSelf (s : State) : s.madeReady.serSelf = s.serSelf := rfl
@[simp] theorem State.madeReady_dc (s : State) : s.madeReady.dc = s.dc := rfl
@[simp] theorem State.madeReady_rp (s : State) : s.madeReady.rp = s.rp := rfl
@[simp] theorem State.madeReady_sdState (s : State) : s.madeReady.sdState = s.sdState := rfl
@[simp] theorem State.madeReady_sdEsc (s : State) : s.madeReady.sdEsc = s.sdEsc := rfl
@[simp] theorem State.madeReady_sdPos (s : State) : s.madeReady.sdPos = s.sdPos := rfl
@[simp] theorem State.madeReady_sdCrcHi (s : State) : s.madeReady.sdCrcHi = s.sdCrcHi := rfl
@[simp] theorem State.madeReady_sdBuf (s : State) : s.madeReady.sdBuf = s.sdBuf := rfl
@[simp] theorem State.madeReady_cmdIn (s : State) : s.madeReady.cmdIn = s.cmdIn := rfl
@[simp] theorem State.madeReady_serIn (s : State) : s.madeReady.serIn = s.serIn := rfl
@[simp] theorem State.madeReady_radIn (s : State) : s.madeReady.radIn = s.radIn := rfl
@[simp] theorem State.madeReady_arb (s : State) : s.madeReady.arb = s.arb := rfl
@[simp] theorem State.madeReady_arbCount (s : State) : s.madeReady.arbCount = s.arbCount := rfl
@[simp] theorem State.madeReady_draws (s : State) : s.madeReady.draws = s.draws := rfl
@[simp] theorem State.madeReady_drawCount (s : State) : s.madeReady.drawCount = s.drawCount := rfl
@[simp] theorem State.madeReady_accepts (s : State) : s.madeReady.accepts = Accepts.unlimited := rfl
@[simp] theorem State.madeReady_stalled (s : State) : s.madeReady.stalled = none := rfl
@[simp] theorem State.madeReady_resetIn (s : State) : s.madeReady.resetIn = none := rfl
@[simp] theorem State.madeReady_resets (s : State) : s.madeReady.resets = s.resets := rfl
@[simp] theorem State.madeReady_out (s : State) : s.madeReady.out = s.out := rfl

theorem State.withOut_nil (s : State) : s.withOut [] = s := by simp [State.withOut]

theorem State.withOut_withOut (s : State) (a b : List Output) : (s.withOut a).withOut b = s.withOut (a ++ b) := by
  simp [State.withOut]

@[simp] theorem State.withOut_nextDraw (s : State) (os : List Output) : (s.withOut os).nextDraw = s.nextDraw := rfl

@[simp] theorem State.emitted_nextDraw (s : State) (o : Output) : (s.emitted o).nextDraw = s.nextDraw := rfl

end Sys2Proof.Machine
end

