-- ==== Sys2Proof/Laws/Ops.lean ====
section
/-!
SUPPORT. What the shared operations can do, said once: what each does before collaborators that accept (`_ready`), what it
can answer at all (`_next`), and that a property every accepted output and every wait keeps is kept (`_keeps`).
-/
namespace Sys2Proof.Machine

/-! ### Ports that accept everything -/

@[simp] theorem Accepts.unlimited_get (p : Port) : Accepts.unlimited.get p = none := by cases p <;> rfl

@[simp] theorem Accepts.unlimited_use (p : Port) : Accepts.unlimited.use p = Accepts.unlimited := by cases p <;> rfl

theorem State.Ready.not_resetDue {s : State} (h : s.Ready) : s.resetDue = false := by
  simp [State.resetDue, h.resetIn]

theorem State.Ready.not_blocked {s : State} (h : s.Ready) (p : Port) : s.blocked p = false := by
  simp [State.blocked, h.accepts]

theorem State.Ready.emitted_eq {s : State} (h : s.Ready) (o : Output) : s.emitted o = s.withOut [o] := by
  obtain ⟨ha, hr, _⟩ := h
  cases s
  simp_all [State.emitted, State.withOut]

theorem State.Ready.withOut {s : State} (h : s.Ready) (os : List Output) : (s.withOut os).Ready :=
  ⟨h.accepts, h.resetIn, h.stalled⟩

theorem State.Ready.drawn {s : State} (h : s.Ready) : s.drawn.Ready :=
  ⟨by simp [h.accepts], by simp [h.resetIn], by simp [h.stalled]⟩

theorem State.madeReady_ready (s : State) : s.madeReady.Ready := ⟨rfl, rfl, rfl⟩

theorem State.Ready.madeReady_eq {s : State} (h : s.Ready) : s.madeReady = s := by
  obtain ⟨ha, hr, hs⟩ := h
  cases s
  simp_all [State.madeReady]

/-! ### Outputs -/

theorem emit_ready {s : State} (h : s.Ready) (o : Output) (k : State → Result) : emit o s k = k (s.withOut [o]) := by
  simp [emit, h.not_resetDue, h.not_blocked, h.emitted_eq]

theorem emitAll_ready {s : State} (h : s.Ready) (os : List Output) (k : State → Result) :
    emitAll os s k = k (s.withOut os) := by
  induction os generalizing s with
  | nil => simp [emitAll, State.withOut_nil]
  | cons o os ih => simp [emitAll, emit_ready h, ih (h.withOut [o]), State.withOut_withOut]

theorem respond_ready {s : State} (h : s.Ready) (bs : List Byte) :
    respond bs s = .next (s.withOut [.response (0x00#8 :: bs)]) := by
  simp [respond, emit_ready h, statusCode]

theorem raiseStatus_ready {s : State} (h : s.Ready) (st : Status) :
    raiseStatus st s = .next (s.withOut [.response [statusCode st]]) := by
  simp [raiseStatus, emit_ready h]

/-- Everything an output can do: reset comes first, the port never accepts, or the rest of the event goes on. -/
theorem emit_next {o : Output} {s t : State} {k : State → Result} (h : emit o s k = .next t) :
    (s.resetDue = true ∧ t = s) ∨
    (s.resetDue = false ∧ s.blocked (outputPort o) = true ∧ t = s.waitFor (outputPort o)) ∨
    (s.resetDue = false ∧ s.blocked (outputPort o) = false ∧ k (s.emitted o) = .next t) := by
  unfold emit at h
  split at h
  · cases h; exact .inl ⟨‹_›, rfl⟩
  · split at h
    · cases h; exact .inr (.inl ⟨eq_false_of_ne_true ‹_›, ‹_›, rfl⟩)
    · exact .inr (.inr ⟨eq_false_of_ne_true ‹_›, eq_false_of_ne_true ‹_›, h⟩)

/-- A property that accepted outputs and waits keep. An output is accepted only where no reset is due. -/
structure Steady (P : State → Prop) : Prop where
  emitted : ∀ s o, s.resetDue = false → s.blocked (outputPort o) = false → P s → P (s.emitted o)
  waitFor : ∀ s p, P s → P (s.waitFor p)

theorem emit_keeps {P : State → Prop} (hP : Steady P) {o : Output} {s t : State} {k : State → Result}
    (hk : ∀ s', P s' → k s' = .next t → P t) (hs : P s) (h : emit o s k = .next t) : P t := by
  obtain ⟨-, rfl⟩ | ⟨-, -, rfl⟩ | ⟨hr, hb, h⟩ := emit_next h
  · exact hs
  · exact hP.waitFor _ _ hs
  · exact hk _ (hP.emitted _ _ hr hb hs) h

theorem emitAll_keeps {P : State → Prop} (hP : Steady P) {os : List Output} {s t : State} {k : State → Result}
    (hk : ∀ s', P s' → k s' = .next t → P t) (hs : P s) (h : emitAll os s k = .next t) : P t := by
  induction os generalizing s with
  | nil => exact hk _ hs h
  | cons o os ih => exact emit_keeps hP (fun s' hs' h' => ih hs' h') hs h

theorem respond_keeps {P : State → Prop} (hP : Steady P) {bs : List Byte} {s t : State}
    (hs : P s) (h : respond bs s = .next t) : P t :=
  emit_keeps hP (fun s' hs' h' => by cases h'; exact hs') hs h

theorem raiseStatus_keeps {P : State → Prop} (hP : Steady P) {st : Status} {s t : State}
    (hs : P s) (h : raiseStatus st s = .next t) : P t :=
  emit_keeps hP (fun s' hs' h' => by cases h'; exact hs') hs h

/-! ### Draws -/

/-- A draw lies in [1,255] (R90), by the type of draws. -/
theorem drawByte_toNat (d : Draw) : (drawByte d).toNat = d.val + 1 := by
  have := d.isLt
  simp [drawByte, BitVec.toNat_ofNat]
  omega

theorem drawByte_ne_zero (d : Draw) : drawByte d ≠ 0x00#8 := by
  intro h
  have := congrArg BitVec.toNat h
  rw [drawByte_toNat] at this
  simp at this

theorem draw_ready {s : State} (h : s.Ready) (k : Byte → State → Result) : draw s k = k s.nextDraw s.drawn := by
  simp [draw, h.not_resetDue, h.not_blocked]

/-- Everything a draw can do. -/
theorem draw_next {s t : State} {k : Byte → State → Result} (h : draw s k = .next t) :
    (s.resetDue = true ∧ t = s) ∨
    (s.resetDue = false ∧ s.blocked .random = true ∧ t = s.waitFor .random) ∨
    (s.resetDue = false ∧ s.blocked .random = false ∧ k s.nextDraw s.drawn = .next t) := by
  unfold draw at h
  split at h
  · cases h; exact .inl ⟨‹_›, rfl⟩
  · split at h
    · cases h; exact .inr (.inl ⟨eq_false_of_ne_true ‹_›, ‹_›, rfl⟩)
    · exact .inr (.inr ⟨eq_false_of_ne_true ‹_›, eq_false_of_ne_true ‹_›, h⟩)

theorem draw_keeps {P : State → Prop} (hP : Steady P) {s t : State} {k : Byte → State → Result}
    (hd : s.resetDue = false → P s → P s.drawn) (hk : P s.drawn → k s.nextDraw s.drawn = .next t → P t)
    (hs : P s) (h : draw s k = .next t) : P t := by
  obtain ⟨-, rfl⟩ | ⟨-, -, rfl⟩ | ⟨hr, -, h⟩ := draw_next h
  · exact hs
  · exact hP.waitFor _ _ hs
  · exact hk (hd hr hs) h

/-! ### The frame buffer -/

theorem memRead_next {i : Nat} {s t : State} {k : Byte → Result} (h : memRead i s k = .next t) :
    i < s.cfg.serMax ∧ k (bufGet s.sdBuf i) = .next t := by
  unfold memRead at h
  split at h
  · exact ⟨‹_›, h⟩
  · cases h

theorem memRead_inside {i : Nat} {s : State} (h : i < s.cfg.serMax) (k : Byte → Result) :
    memRead i s k = k (bufGet s.sdBuf i) := by simp [memRead, h]

theorem memWrite_next {i : Nat} {v : Byte} {s t : State} {k : State → Result} (h : memWrite i v s k = .next t) :
    i < s.cfg.serMax ∧ k { s with sdBuf := bufSet s.sdBuf i v } = .next t := by
  unfold memWrite at h
  split at h
  · exact ⟨‹_›, h⟩
  · cases h

theorem memWrite_inside {i : Nat} {v : Byte} {s : State} (h : i < s.cfg.serMax) (k : State → Result) :
    memWrite i v s k = k { s with sdBuf := bufSet s.sdBuf i v } := by simp [memWrite, h]

/-- The bytes at `n` indices from `i` on. -/
def bufSlice (m : Buffer) (i n : Nat) : List Byte := (List.range' i n).map (bufGet m)

theorem memReadList_next {i n : Nat} {s t : State} {k : List Byte → Result} (h : memReadList i n s k = .next t) :
    k (bufSlice s.sdBuf i n) = .next t ∧ (0 < n → i + n ≤ s.cfg.serMax) := by
  induction n generalizing i k with
  | zero => exact ⟨h, fun h0 => absurd h0 (Nat.lt_irrefl 0)⟩
  | succ n ih =>
    obtain ⟨hi, h⟩ := memRead_next h
    obtain ⟨h, hn⟩ := ih h
    refine ⟨by simpa [bufSlice, List.range'_succ] using h, fun _ => ?_⟩
    rcases n with - | n
    · omega
    · have := hn (Nat.succ_pos n); omega

theorem memReadList_inside {i n : Nat} {s : State} (h : i + n ≤ s.cfg.serMax) (k : List Byte → Result) :
    memReadList i n s k = k (bufSlice s.sdBuf i n) := by
  induction n generalizing i k with
  | zero => rfl
  | succ n ih =>
    rw [memReadList, memRead_inside (by omega), ih (by omega)]
    simp [bufSlice, List.range'_succ]

/-! ### PHY allocation -/

/-- Taking draws changes no free candidate: `Free` reads `RAD_SELF` and the tables only (R132). -/
@[simp] theorem freePhy_drawn (c : Byte) (s : State) : freePhy c s.drawn = freePhy c s := by simp [freePhy]

/-- Everything `AllocPhy` can do with the rest of the event: for a property that draws and waits keep, the rest runs from a
state that has it, with a free candidate or with none (R131). -/
theorem allocPhy_keeps {P : State → Prop} (hP : Steady P) (hd : ∀ s, s.resetDue = false → P s → P s.drawn) {n : Nat} {s t : State}
    {k : Option Byte → State → Result}
    (hnone : ∀ s', P s' → k none s' = .next t → P t)
    (hsome : ∀ c s', P s' → c ≠ 0x00#8 → freePhy c s' = true → k (some c) s' = .next t → P t)
    (hs : P s) (h : allocPhy n s k = .next t) : P t := by
  induction n generalizing s with
  | zero => exact hnone _ hs h
  | succ n ih =>
    refine draw_keeps hP (hd s) (fun hs' h' => ?_) hs h
    split at h'
    · rename_i hf
      refine hsome _ _ hs' ?_ hf h'
      unfold State.nextDraw
      split <;> exact drawByte_ne_zero _
    · exact ih hs' h'

theorem radioInit_keeps {P : State → Prop} (hP : Steady P) {s t : State} {k : State → Result}
    (hd : s.resetDue = false → P s → P s.drawn)
    (hinit : ∀ d, d ≠ 0x00#8 → P s.drawn → P { s.drawn with radSelf := d, dc := tableReset, rp := tableReset })
    (hk : ∀ s', P s' → k s' = .next t → P t) (hs : P s) (h : radioInit s k = .next t) : P t := by
  refine draw_keeps hP hd (fun hs' h' => emitAll_keeps hP hk (hinit _ ?_ hs') h') hs h
  unfold State.nextDraw
  split <;> exact drawByte_ne_zero _

end Sys2Proof.Machine
end

