-- ==== Sys2Proof/Laws/Memory.lean ====
section
/-!
SUPPORT. The laws of the frame buffer: a read after a write, and that every write keeps the canonical form.
-/
namespace Sys2Proof.Machine

theorem bufGet_of_lt {m : Buffer} {i : Nat} (h : ∀ c ∈ m, i < c.1) : bufGet m i = unwritten := by
  induction m with
  | nil => rfl
  | cons c m ih =>
    have := h c (by simp)
    rw [bufGet, if_neg (by omega)]
    exact ih (fun d hd => h d (by simp [hd]))

/-- A write leaves every other index alone, in any buffer. -/
theorem bufGet_bufSet_other {m : Buffer} {i j : Nat} {v : Byte} (h : j ≠ i) :
    bufGet (bufSet m i v) j = bufGet m j := by
  induction m with
  | nil => unfold bufSet; split <;> simp [bufGet, h]
  | cons c m ih =>
    obtain ⟨k, w⟩ := c
    unfold bufSet
    repeat' split
    all_goals simp_all [bufGet]

/-- A read after a write to the same index gives the byte written. -/
theorem bufGet_bufSet_same {m : Buffer} (hm : Buffer.wf m) (i : Nat) (v : Byte) : bufGet (bufSet m i v) i = v := by
  induction m with
  | nil => unfold bufSet; split <;> simp_all [bufGet]
  | cons c m ih =>
    obtain ⟨k, w⟩ := c
    obtain ⟨hs, hd⟩ := hm
    rw [List.pairwise_cons] at hs
    have hm' : Buffer.wf m := ⟨hs.2, fun c hc => hd c (by simp [hc])⟩
    unfold bufSet
    split
    · split
      · rename_i hik hv
        rw [bufGet, if_neg (by omega), bufGet_of_lt (fun c hc => by have := hs.1 c hc; simp at this; omega), hv]
      · simp [bufGet]
    · split
      · rename_i hik
        subst hik
        split
        · rename_i hv
          rw [bufGet_of_lt (fun c hc => hs.1 c hc), hv]
        · simp [bufGet]
      · rename_i h1 h2
        rw [bufGet, if_neg h2]
        exact ih hm'

/-- What a write lists was listed before, or is the byte written. -/
theorem mem_bufSet {m : Buffer} {i : Nat} {v : Byte} {c : Host.Cell} (h : c ∈ bufSet m i v) :
    c ∈ m ∨ (c = (i, v) ∧ v ≠ unwritten) := by
  induction m with
  | nil => unfold bufSet at h; split at h <;> simp_all
  | cons d m ih =>
    obtain ⟨k, w⟩ := d
    unfold bufSet at h
    repeat' split at h
    all_goals
      simp only [List.mem_cons] at h ⊢
      tauto

/-- A write keeps the canonical form. -/
theorem bufSet_wf {m : Buffer} (hm : Buffer.wf m) (i : Nat) (v : Byte) : Buffer.wf (bufSet m i v) := by
  induction m with
  | nil =>
    unfold bufSet
    split
    · exact hm
    · exact ⟨by simp, by simpa using ‹_›⟩
  | cons c m ih =>
    obtain ⟨k, w⟩ := c
    obtain ⟨hs, hd⟩ := hm
    have hs' := hs
    rw [List.pairwise_cons] at hs
    have hm' : Buffer.wf m := ⟨hs.2, fun c hc => hd c (by simp [hc])⟩
    unfold bufSet
    split
    · split
      · exact ⟨hs', hd⟩
      · rename_i hik hv
        refine ⟨List.pairwise_cons.2 ⟨fun c hc => ?_, hs'⟩, fun c hc => ?_⟩
        · rcases List.mem_cons.1 hc with rfl | hc
          · exact hik
          · exact Nat.lt_trans hik (hs.1 c hc)
        · rcases List.mem_cons.1 hc with rfl | hc
          · exact hv
          · exact hd c hc
    · split
      · rename_i hik
        subst hik
        split
        · exact hm'
        · rename_i hv
          refine ⟨List.pairwise_cons.2 ⟨hs.1, hs.2⟩, fun c hc => ?_⟩
          rcases List.mem_cons.1 hc with rfl | hc
          · exact hv
          · exact hm'.2 c hc
      · rename_i h1 h2
        obtain ⟨ihs, ihd⟩ := ih hm'
        refine ⟨List.pairwise_cons.2 ⟨fun c hc => ?_, ihs⟩, fun c hc => ?_⟩
        · rcases mem_bufSet hc with hc | ⟨rfl, -⟩
          · exact hs.1 c hc
          · show k < i; omega
        · rcases List.mem_cons.1 hc with rfl | hc
          · exact hd _ (by simp)
          · exact ihd c hc

/-- A write lists no index beyond those listed and the one written. -/
theorem bufSet_range {m : Buffer} {i n : Nat} {v : Byte} (hm : ∀ c ∈ m, c.1 < n) (hi : i < n) :
    ∀ c ∈ bufSet m i v, c.1 < n := by
  intro c hc
  rcases mem_bufSet hc with hc | ⟨rfl, -⟩
  · exact hm c hc
  · exact hi

/-- The reset memory is in canonical form. -/
theorem reset_bufWf : Buffer.wf State.reset.sdBuf := by decide

end Sys2Proof.Machine
end

