-- ==== Sys2Proof/Laws/PerInstr.lean ====
section
/-!
SUPPORT. Statements made per instruction: an instruction's encoding decodes to the core instruction it stands for.
-/
namespace Sys2Proof.Laws.RoundTrip

/-- Decoding the encoding of a well-formed instruction gives it back, a pseudo-instruction as what it expands to (R92). -/
def Statement (i : Instr) : Prop := i.wellFormed = true → decode (encode i) = .ok i.core

theorem nop : Statement .nop := fun _ => rfl

theorem regRead (r : Byte) : Statement (.regRead r) := fun _ => rfl

theorem tblLookup (t m : Byte) : Statement (.tblLookup t m) := fun _ => rfl

theorem tblContains (t role v : Byte) : Statement (.tblContains t role v) := fun _ => rfl

theorem tblRead (t k : Byte) : Statement (.tblRead t k) := fun _ => rfl

theorem radSend (d : Byte) (p : List Byte) : Statement (.radSend d p) := fun h => by
  simp [encode, decode, decodeCommand, findOpcode_radSend, formatFits_payload h, Instr.core]
  rfl

theorem radReinit : Statement .radReinit := fun _ => rfl

theorem serSend (d : Byte) (p : List Byte) : Statement (.serSend d p) := fun h => by
  simp [encode, decode, decodeCommand, findOpcode_serSend, formatFits_payload h, Instr.core]
  rfl

theorem serRedraw : Statement .serRedraw := fun _ => rfl

theorem serBcast (p : List Byte) : Statement (.serBcast p) := fun h => serSend BCAST_MAC p h

theorem radBcast (p : List Byte) : Statement (.radBcast p) := fun h => radSend BCAST_MAC p h

theorem serRxPreamble : Statement .serRxPreamble := fun _ => rfl

theorem serRxEscape : Statement .serRxEscape := fun _ => rfl

theorem serRxData (b : Byte) : Statement (.serRxData b) := fun h => by
  simp [encode, decode, decodeSerRx_data h, Instr.core]

theorem radRx (f : List Byte) : Statement (.radRx f) := fun _ => rfl

end Sys2Proof.Laws.RoundTrip
end

