-- ==== Sys2Proof/Laws/Tables.lean ====
section
/-!
SUPPORT. The laws of the address tables (spec/40_address_tables.md R101 to R103).
-/
namespace Sys2Proof.Machine

theorem tblLookup_none {t : Table} {mac : Byte} : tblLookup t mac = none ↔ ∀ sl ∈ t, sl.mac ≠ mac := by
  induction t with
  | nil => simp [tblLookup]
  | cons sl t ih =>
    unfold tblLookup
    split <;> simp_all

theorem tblLookup_mem {t : Table} {mac phy : Byte} (h : tblLookup t mac = some phy) : (⟨mac, phy⟩ : Slot) ∈ t := by
  induction t with
  | nil => simp [tblLookup] at h
  | cons sl t ih =>
    unfold tblLookup at h
    split at h
    · cases h; subst_vars; simp
    · exact List.mem_cons_of_mem _ (ih h)

/-- Everything an insertion can do to the table (R102). -/
theorem tblTryInsert_cases (cap : Nat) (t : Table) (mac phy : Byte) :
    ((tblTryInsert cap t mac phy).2 = t ∧ ((∃ p, tblLookup t mac = some p) ∨ t.length = cap)) ∨
    ((tblTryInsert cap t mac phy).2 = t ++ [⟨mac, phy⟩] ∧ tblLookup t mac = none ∧ t.length ≠ cap) := by
  unfold tblTryInsert
  split
  · exact .inl ⟨rfl, .inl ⟨_, ‹_›⟩⟩
  · split
    · exact .inl ⟨rfl, .inr ‹_›⟩
    · exact .inr ⟨rfl, ‹_›, ‹_›⟩

theorem tblTryInsert_fresh {cap : Nat} {t : Table} {mac : Byte} (h : tblLookup t mac = none) (hc : t.length ≠ cap)
    (phy : Byte) : tblTryInsert cap t mac phy = (true, t ++ [⟨mac, phy⟩]) := by
  simp [tblTryInsert, h, hc]

theorem tblContains_mac {t : Table} {v : Byte} : tblContains t v .MAC = true ↔ ∃ sl ∈ t, sl.mac = v := by
  induction t with
  | nil => simp [tblContains]
  | cons sl t ih => simp [tblContains, ih]

theorem tblContains_phy {t : Table} {v : Byte} : tblContains t v .PHY = true ↔ ∃ sl ∈ t, sl.phy = v := by
  induction t with
  | nil => simp [tblContains]
  | cons sl t ih => simp [tblContains, ih]

end Sys2Proof.Machine
end

