-- ==== Sys2Proof/Laws/Radio.lean ====
section
/-!
SUPPORT. The radio send path said once: what the transmit sequence and the allocation do before collaborators that accept,
and that a property every accepted output, wait, draw and insertion into RP keeps is kept by a whole send.
-/
namespace Sys2Proof.Machine

theorem nextDraw_ne_zero (s : State) : s.nextDraw ≠ 0x00#8 := by
  unfold State.nextDraw
  split <;> exact drawByte_ne_zero _

/-- The transmit sequence (R133, R134). -/
theorem radTransmit_ready {s : State} (h : s.Ready) (pipe : PhysAddress) (ack : Bool) (reply : Byte) (p : List Byte) :
    radTransmit pipe ack reply p s = .next (s.withOut
      [.stopListening, .writeFrame pipe (s.radSelf :: reply :: p) ack, .startListening, .response [0x00#8]]) := by
  simp only [radTransmit, emitAll_ready h, respond_ready (h.withOut _), State.withOut_withOut]
  rfl

/-- The allocation after a number of rejected draws (R131). -/
theorem allocPhy_rejected {s : State} (h : s.Ready) (rejected rest : List Draw) (hs : s.draws = rejected ++ rest)
    (hr : ∀ x ∈ rejected, freePhy (drawByte x) s = false) (n : Nat) (k : Option Byte → State → Result) :
    allocPhy (rejected.length + n) s k = allocPhy n { s with draws := rest } k := by
  induction rejected generalizing s with
  | nil => simp at hs; simp [← hs]
  | cons c rejected ih =>
    have hdrawn : s.drawn = { s with draws := rejected ++ rest } := by
      unfold State.drawn; rw [hs]; simp [h.accepts, h.resetIn]
    have hnext : s.nextDraw = drawByte c := by unfold State.nextDraw; rw [hs]; rfl
    rw [show (c :: rejected).length + n = (rejected.length + n) + 1 by simp; omega, allocPhy, draw_ready h, freePhy_drawn,
      hnext, hr c (by simp), hdrawn]
    exact ih (s := { s with draws := rejected ++ rest }) ⟨h.accepts, h.resetIn, h.stalled⟩ rfl
      (fun x hx => hr x (by simp [hx]))

/-- Whatever the draws, the rest of the event runs, with a free candidate or with none (R131, R132). -/
theorem allocPhy_ready {s : State} (h : s.Ready) (n : Nat) (k : Option Byte → State → Result) :
    ∃ c s', allocPhy n s k = k c s' ∧ s'.Ready ∧ s'.cfg = s.cfg ∧ s'.rp = s.rp ∧ s'.dc = s.dc ∧ s'.radSelf = s.radSelf ∧
      s'.out = s.out ∧ ∀ b, c = some b → b ≠ 0x00#8 ∧ freePhy b s = true := by
  induction n generalizing s with
  | zero => exact ⟨none, s, rfl, h, rfl, rfl, rfl, rfl, rfl, by simp⟩
  | succ n ih =>
    rw [allocPhy, draw_ready h]
    split
    · rename_i hf
      refine ⟨_, _, rfl, h.drawn, by simp, by simp, by simp, by simp, by simp, ?_⟩
      rintro b hb
      cases hb
      exact ⟨nextDraw_ne_zero s, by simpa using hf⟩
    · obtain ⟨c, s', e, hr, h1, h2, h3, h4, h5, h6⟩ := ih h.drawn
      exact ⟨c, s', e, hr, by simpa using h1, by simpa using h2, by simpa using h3, by simpa using h4, by simpa using h5,
        by simpa using h6⟩

/-- A property that outputs, waits, draws and the one insertion into RP keep is kept by a radio send (R127 to R134). -/
theorem radSend_keeps {P : State → Prop} (hP : Steady P) (hd : ∀ s, s.resetDue = false → P s → P s.drawn)
    (hi : ∀ s d c, P s → d ≠ BCAST_MAC → c ≠ 0x00#8 → freePhy c s = true →
      P { s with rp := (tblTryInsert s.cfg.rpCap s.rp d c).2 })
    {d : Byte} {p : List Byte} {s t : State} (hs : P s) (h : radSend d p s = .next t) : P t := by
  unfold radSend at h
  split at h
  · exact raiseStatus_keeps hP hs h
  · have ht : ∀ r s', P s' → radTransmit (radPipe d s).1 (radPipe d s).2 r p s' = .next t → P t := fun r s' hs' h' =>
      emitAll_keeps hP (fun s'' hs'' h'' => respond_keeps hP hs'' h'') hs' h'
    unfold radReply at h
    split at h
    · exact ht _ _ hs h
    · rename_i hdd
      split at h
      · exact ht _ _ hs h
      · split at h
        · exact ht _ _ hs h
        · refine allocPhy_keeps hP hd ?_ ?_ hs h
          · intro s' hs' h'; exact ht _ _ hs' h'
          · intro c s' hs' hc hf h'
            exact emit_keeps hP (fun s'' hs'' h'' => ht _ _ hs'' h'') (hi _ _ _ hs' hdd hc hf) h'

/-- A property that outputs and waits keep is kept by a serial send (R164). -/
theorem serSend_keeps {P : State → Prop} (hP : Steady P) {d : Byte} {p : List Byte} {s t : State} (hs : P s)
    (h : serSend d p s = .next t) : P t := by
  unfold serSend at h
  split at h
  · exact raiseStatus_keeps hP hs h
  · exact emitAll_keeps hP (fun s'' hs'' h'' => respond_keeps hP hs'' h'') hs h

end Sys2Proof.Machine
end

