-- ==== Sys2Proof/Laws/Serial.lean ====
section
/-!
SUPPORT. The serial decoder's step said once: everything a logical byte can do (spec/42_serial_framer.md R157 to R162).
-/
namespace Sys2Proof.Machine

/-- The one output of a CRC low byte `x` (R160): the delivery, or the hook event. -/
def frameOutput (x : Byte) (s : State) : Output :=
  let len := (bufGet s.sdBuf 0).toNat
  if crc16 (bufSlice s.sdBuf 0 (len + 3)) = (s.sdCrcHi ++ x : BitVec (8 + 8)) then
    .deliver (bufSlice s.sdBuf 3 len) s.cfg.ifSerial (bufGet s.sdBuf 1)
  else .serCrcFail

theorem checkFrame_next {n : Nat} {x : Byte} {s t : State} (hn : n = (bufGet s.sdBuf 0).toNat)
    (h : checkFrame n x s = .next t) : emit (frameOutput x s) s (fun s => .next (endFrame s)) = .next t := by
  subst hn
  unfold checkFrame at h
  obtain ⟨h, -⟩ := memReadList_next h
  unfold frameOutput
  split at h
  · obtain ⟨h, -⟩ := memReadList_next h
    obtain ⟨-, h⟩ := memRead_next h
    rw [if_pos ‹_›]; exact h
  · rw [if_neg ‹_›]; exact h

/-- The filter of R158 at this state, with the frame's own length and destination. -/
def frameTurnedAway (s : State) : Bool := filterDrops (bufGet s.sdBuf 0) (bufGet s.sdBuf 2) s

/-- Everything a logical byte can do. -/
theorem collectByte_next {x : Byte} {s t : State} (h : collectByte x s = .next t) :
    (s.sdState = .dropping ∧ t = s) ∨
    (s.sdState = .collecting ∧ s.sdPos.toNat < s.cfg.serMax ∧
      (s.sdPos.toNat ≤ 2 ∨ (frameTurnedAway s = false ∧ s.sdPos.toNat ≠ (bufGet s.sdBuf 0).toNat + 3 ∧
        s.sdPos.toNat ≠ (bufGet s.sdBuf 0).toNat + 4)) ∧
      t = nextPos { s with sdBuf := bufSet s.sdBuf s.sdPos.toNat x }) ∨
    (s.sdState = .collecting ∧ 2 < s.sdPos.toNat ∧ frameTurnedAway s = true ∧ t = { s with sdState := .dropping }) ∨
    (s.sdState = .collecting ∧ 2 < s.sdPos.toNat ∧ frameTurnedAway s = false ∧
      s.sdPos.toNat = (bufGet s.sdBuf 0).toNat + 3 ∧ t = nextPos { s with sdCrcHi := x }) ∨
    (s.sdState = .collecting ∧ 2 < s.sdPos.toNat ∧ frameTurnedAway s = false ∧
      s.sdPos.toNat = (bufGet s.sdBuf 0).toNat + 4 ∧
      emit (frameOutput x s) s (fun s => .next (endFrame s)) = .next t) := by
  unfold collectByte at h
  split at h
  · cases h; exact .inl ⟨‹_›, rfl⟩
  · rename_i hst
    split at h
    · obtain ⟨hlt, h⟩ := memWrite_next h
      cases h
      exact .inr (.inl ⟨hst, hlt, .inl ‹_›, rfl⟩)
    · rename_i hp
      unfold bodyByte at h
      obtain ⟨-, h⟩ := memRead_next h
      obtain ⟨-, h⟩ := memRead_next h
      split at h
      · cases h; exact .inr (.inr (.inl ⟨hst, by omega, ‹_›, rfl⟩))
      · have hf := eq_false_of_ne_true ‹¬filterDrops _ _ s = true›
        split at h
        · cases h; exact .inr (.inr (.inr (.inl ⟨hst, by omega, hf, ‹_›, rfl⟩)))
        · split at h
          · exact .inr (.inr (.inr (.inr ⟨hst, by omega, hf, ‹_›, checkFrame_next rfl h⟩)))
          · obtain ⟨hlt, h⟩ := memWrite_next h
            cases h
            exact .inr (.inl ⟨hst, hlt, .inr ⟨hf, ‹_›, ‹_›⟩, rfl⟩)

theorem collectByte_dropping {x : Byte} {s : State} (h : s.sdState = .dropping) : collectByte x s = .next s := by
  unfold collectByte
  split
  · rfl
  · rename_i h'; rw [h] at h'; cases h'

theorem collectByte_collecting {x : Byte} {s : State} (h : s.sdState = .collecting) :
    collectByte x s = if s.sdPos.toNat ≤ 2 then memWrite s.sdPos.toNat x s (fun s => .next (nextPos s)) else bodyByte x s := by
  unfold collectByte
  split
  · rename_i h'; rw [h] at h'; cases h'
  · rfl

theorem nextPos_toNat {s : State} (h : s.sdPos.toNat < 65535) : (nextPos s).sdPos.toNat = s.sdPos.toNat + 1 := by
  simp [nextPos]; omega

/-! ### Raw bytes and logical bytes -/

/-- Logical bytes handed to the decoder one after another (R157 to R162). -/
def feedLogical : List Byte → State → Result
  | [], s => .next s
  | x :: xs, s =>
    match collectByte x s with
    | .next t => feedLogical xs t
    | .fault r => .fault r
    | .refused r => .refused r

/-- A logical byte sets no escape flag. -/
theorem collectByte_sdEsc {x : Byte} {s t : State} (hs : s.sdEsc = false) (h : collectByte x s = .next t) :
    t.sdEsc = false := by
  obtain ⟨-, rfl⟩ | ⟨-, -, -, rfl⟩ | ⟨-, -, -, rfl⟩ | ⟨-, -, -, -, rfl⟩ | ⟨-, -, -, -, h⟩ := collectByte_next h
  · exact hs
  · exact hs
  · exact hs
  · exact hs
  · exact emit_keeps (P := fun t => t.sdEsc = false) ⟨fun _ _ _ _ h => h, fun _ _ h => h⟩
      (fun s' h' hk => by cases hk; exact h') hs h

/-- Stuffing undone: the raw bytes of a stuffed list give the decoder the list itself (R152, R155, R156). -/
theorem feedBytes_stuff (xs : List Byte) (s : State) (h : s.sdEsc = false) : feedBytes (stuff xs) s = feedLogical xs s := by
  induction xs generalizing s with
  | nil => rfl
  | cons x xs ih =>
    have hrest : ∀ r : Result, r = collectByte x s →
        (match r with
          | .next t => feedBytes (stuff xs) t
          | .fault r => .fault r
          | .refused r => .refused r) = feedLogical (x :: xs) s := by
      rintro r rfl
      unfold feedLogical
      cases hc : collectByte x s with
      | next t => exact ih t (collectByte_sdEsc h hc)
      | fault => rfl
      | refused => rfl
    unfold stuff
    by_cases hx : x = PREAMBLE ∨ x = ESC
    · rw [if_pos hx]
      have h1 : decodeSerRx ESC = .serRxEscape := by decide
      have h2 : decodeSerRx (x ^^^ XMASK) = .serRxData (x ^^^ XMASK) := by rcases hx with rfl | rfl <;> decide
      have h3 : x ^^^ XMASK ^^^ XMASK = x := by rcases hx with rfl | rfl <;> decide
      simp only [feedBytes, h1, h2, exec, execSerRxEscape]
      refine hrest _ ?_
      simp only [execSerRxData, logicalByte, if_true, h3]
      congr 1
      cases s
      simp_all
    · rw [if_neg hx]
      have h2 : decodeSerRx x = .serRxData x := by simp only [not_or] at hx; simp [decodeSerRx, hx]
      simp only [feedBytes, h2, exec]
      refine hrest _ ?_
      have he : ({ s with sdEsc := false } : State) = s := by cases s; simp_all
      simp [execSerRxData, logicalByte, h, he]

end Sys2Proof.Machine
end

