-- ==== Sys2Proof/Tests/Slice0.lean ====
section
/-!
SUPPORT. Tests: ill-formed terms that WellFormed refuses, words written out from the spec's encodings, one step per
instruction with the result that spec/95_test_vectors.md gives (its row is named), and for every statement with
hypotheses a state and operands that meet them.
-/
namespace Sys2Proof.Tests
open Sys2Proof Sys2Proof.Machine

/-! ### Helpers -/

/-- The start state of the vectors: test configuration, `RAD_SELF` 05, `SER_SELF` 09, the rest as after reset. -/
def base : State where
  cfg := Config.test
  radSelf := 0x05#8
  serSelf := 0x09#8
  dc := []
  rp := []
  sdState := .dropping
  sdEsc := false
  sdPos := 0#16
  sdCrcHi := 0x00#8
  sdBuf := []
  cmdIn := []
  serIn := []
  radIn := []
  arb := []
  arbCount := 0
  draws := []
  drawCount := 2
  accepts := Accepts.unlimited
  stalled := none
  resetIn := none
  resets := []
  out := []

/-- The draw that answers `v`, for v in 1..255. -/
def drawOf (v : Nat) : Draw := Fin.ofNat 255 (v - 1)

/-- What the vectors write `PA(p)`: 0xF0F0F0F00001 followed by p. -/
def pa (p : Nat) : PhysAddress := BitVec.ofNat 56 (0xF0F0F0F0000100 + p)

/-- Something of the next state. -/
def after {α : Type} (f : State → α) : Result → Option α
  | .next s => some (f s)
  | _ => none

theorem after_some {α : Type} {f : State → α} {r : Result} {a : α} (h : after f r = some a) :
    ∃ t, r = .next t ∧ f t = a := by
  cases r with
  | next t => exact ⟨t, rfl, by simpa [after] using h⟩
  | fault => cases h
  | refused => cases h

/-- A decoder in the middle of the frame 02 05 00 68 69, all but the CRC low byte taken (S-D1). -/
def midFrame : State :=
  { base with
    sdState := .collecting
    sdPos := 6#16
    sdCrcHi := 0x87#8
    sdBuf := [(0, 0x02#8), (1, 0x05#8), (3, 0x68#8), (4, 0x69#8)] }

/-- The state of a decoder as the vectors write it. -/
def decoder (s : State) : DecoderState × Bool × Half × Byte := (s.sdState, s.sdEsc, s.sdPos, s.sdCrcHi)

/-! ### WellFormed refuses an ill-formed term for each of its checks -/

theorem test_wf_radSend_too_long : (Instr.radSend 0x22#8 (List.replicate 256 0x00#8)).wellFormed = false := by decide +kernel
theorem test_wf_serSend_too_long : (Instr.serSend 0x22#8 (List.replicate 256 0x00#8)).wellFormed = false := by decide +kernel
theorem test_wf_serBcast_too_long : (Instr.serBcast (List.replicate 256 0x00#8)).wellFormed = false := by decide +kernel
theorem test_wf_radBcast_too_long : (Instr.radBcast (List.replicate 256 0x00#8)).wellFormed = false := by decide +kernel
theorem test_wf_serRxData_preamble : (Instr.serRxData 0x7E#8).wellFormed = false := by decide
theorem test_wf_serRxData_escape : (Instr.serRxData 0x7D#8).wellFormed = false := by decide

/-! ### Decoding of words written out from 30_encoding.md R71, R72, R89 -/

theorem test_decode_nop : decode (.command ⟨0x00#8, []⟩) = .ok .nop := rfl
theorem test_decode_regRead : decode (.command ⟨0x01#8, [0x0D#8]⟩) = .ok (.regRead 0x0D#8) := rfl
theorem test_decode_tblLookup : decode (.command ⟨0x10#8, [0x01#8, 0x22#8]⟩) = .ok (.tblLookup 0x01#8 0x22#8) := rfl
theorem test_decode_tblContains :
    decode (.command ⟨0x11#8, [0x01#8, 0x00#8, 0x40#8]⟩) = .ok (.tblContains 0x01#8 0x00#8 0x40#8) := rfl
theorem test_decode_tblRead : decode (.command ⟨0x12#8, [0x00#8, 0x0A#8]⟩) = .ok (.tblRead 0x00#8 0x0A#8) := rfl
theorem test_decode_radSend :
    decode (.command ⟨0x20#8, [0x22#8, 0x02#8, 0x68#8, 0x69#8]⟩) = .ok (.radSend 0x22#8 [0x68#8, 0x69#8]) := rfl
theorem test_decode_radReinit : decode (.command ⟨0x21#8, []⟩) = .ok .radReinit := rfl
theorem test_decode_serSend : decode (.command ⟨0x30#8, [0x05#8, 0x01#8, 0x6F#8]⟩) = .ok (.serSend 0x05#8 [0x6F#8]) := rfl
theorem test_decode_serRedraw : decode (.command ⟨0x31#8, []⟩) = .ok .serRedraw := rfl
theorem test_decode_serBcast :
    encode (.serBcast [0x7E#8]) = .command ⟨0x30#8, [0x00#8, 0x01#8, 0x7E#8]⟩ ∧
      decode (.command ⟨0x30#8, [0x00#8, 0x01#8, 0x7E#8]⟩) = .ok (.serSend 0x00#8 [0x7E#8]) := ⟨rfl, rfl⟩
theorem test_decode_radBcast :
    encode (.radBcast [0x68#8, 0x69#8]) = .command ⟨0x20#8, [0x00#8, 0x02#8, 0x68#8, 0x69#8]⟩ ∧
      decode (.command ⟨0x20#8, [0x00#8, 0x02#8, 0x68#8, 0x69#8]⟩) = .ok (.radSend 0x00#8 [0x68#8, 0x69#8]) := ⟨rfl, rfl⟩
theorem test_decode_serRxPreamble : decode (.serRx 0x7E#8) = .ok .serRxPreamble := rfl
theorem test_decode_serRxEscape : decode (.serRx 0x7D#8) = .ok .serRxEscape := rfl
theorem test_decode_serRxData : decode (.serRx 0x5E#8) = .ok (.serRxData 0x5E#8) := rfl
theorem test_decode_radRx : decode (.radRx [0x22#8, 0x41#8]) = .ok (.radRx [0x22#8, 0x41#8]) := rfl

/-- A transaction's last byte dropped, or one byte added, is refused (R73). -/
theorem test_decode_refuses_lengths :
    decode (.command ⟨0x20#8, [0x00#8, 0x03#8, 0x01#8, 0x02#8]⟩) = .error .malformedLength ∧
      decode (.command ⟨0x00#8, [0x00#8]⟩) = .error .malformedLength ∧
      decode (.command ⟨0x02#8, []⟩) = .error .reservedOpcode := ⟨rfl, rfl, rfl⟩

/-- The rows of opcode_table.json as numbers; operand words that are not there are zeros. -/
theorem test_table_words :
    decodeTableWord 8 0x00 = some .nop ∧ decodeTableWord 8 0x01 = some (.regRead 0x00#8) ∧
      decodeTableWord 8 0x11 = some (.tblContains 0x00#8 0x00#8 0x00#8) ∧
      decodeTableWord 8 0x20 = some (.radSend 0x00#8 []) ∧ decodeTableWord 16 0x3000 = some (.serSend 0x00#8 []) ∧
      decodeTableWord 8 0x7E = some .serRxPreamble ∧ decodeTableWord 8 0x7D = some .serRxEscape ∧
      decodeTableWord 8 0x41 = some (.serRxData 0x41#8) ∧
      decodeTableWord 16 0x2241 = some (.radRx [0x22#8, 0x41#8]) := ⟨rfl, rfl, rfl, rfl, rfl, rfl, rfl, rfl, rfl⟩

/-- The first step after reset runs the word presented, and leaves nothing else of the presentation behind. -/
theorem test_withFetchWord_runs_first :
    step (State.reset.withFetchWord 8 0x31) = exec .serRedraw State.reset ∧
      step (State.reset.withFetchWord 16 0x2241) = exec (.radRx [0x22#8, 0x41#8]) State.reset := ⟨rfl, rfl⟩

/-- `RAD_SEND 0x22, "hi"` of R91, and a line of raw bytes as one event a byte. -/
theorem test_assemble :
    assemble (.radSend 0x22#8 (.ascii ['h', 'i'])) = [.command ⟨0x20#8, [0x22#8, 0x02#8, 0x68#8, 0x69#8]⟩] ∧
      assemble (.rxSerAll [0x7E#8, 0x02#8]) = [.serRx 0x7E#8, .serRx 0x02#8] ∧
      assemble (.tblContains .RP .PHY 0x40#8) = [.command ⟨0x11#8, [0x01#8, 0x01#8, 0x40#8]⟩] := ⟨rfl, rfl, rfl⟩

/-! ### Control and tables -/

/-- Section 9, error vectors, first row. -/
theorem test_nop : after State.out (exec .nop base) = some [.response [0x00#8]] := by decide

/-- Program P3, between steps 7 and 8: Collecting, POS 3, CRCHI 19. -/
theorem test_regRead_serStatus :
    after State.out (exec (.regRead 0x04#8)
        { base with sdState := .collecting, sdPos := 3#16, sdCrcHi := 0x19#8 }) =
      some [.response [0x00#8, 0x00#8, 0x03#8, 0x19#8, 0x00#8]] := by decide

/-- Section 9: `01 0D`, `01 0A` and the reserved `01 0E`. -/
theorem test_regRead_configuration :
    after State.out (exec (.regRead 0x0D#8) base) = some [.response [0x00#8, 0x00#8, 0x00#8, 0x01#8, 0x00#8]] ∧
      after State.out (exec (.regRead 0x0A#8) base) = some [.response [0x00#8, 0xF0#8, 0xF0#8, 0xF0#8, 0xF0#8]] ∧
      after State.out (exec (.regRead 0x0E#8) base) = some [.response [0x04#8]] := by decide

/-- T8 and T9: a miss, and a hit whose PHY is 0. -/
theorem test_tblLookup :
    after State.out (exec (.tblLookup 0x00#8 0x33#8) { base with dc := [⟨0x33#8, 0x00#8⟩] }) =
        some [.response [0x00#8, 0x01#8, 0x00#8]] ∧
      after State.out (exec (.tblLookup 0x01#8 0x33#8) { base with dc := [⟨0x33#8, 0x00#8⟩] }) =
        some [.response [0x00#8, 0x00#8, 0x00#8]] := by decide

/-- T10, and the error vector `11 00 02 00`. -/
theorem test_tblContains :
    after State.out (exec (.tblContains 0x01#8 0x01#8 0x40#8) { base with rp := [⟨0x22#8, 0x40#8⟩] }) =
        some [.response [0x00#8, 0x01#8]] ∧
      after State.out (exec (.tblContains 0x00#8 0x02#8 0x00#8) base) = some [.response [0x04#8]] := by decide

/-- T12, T13, T15 and T16. -/
theorem test_tblRead :
    after State.out (exec (.tblRead 0x00#8 0x00#8) { base with dc := [⟨0x22#8, 0x41#8⟩] }) =
        some [.response [0x00#8, 0x01#8, 0x22#8, 0x41#8]] ∧
      after State.out (exec (.tblRead 0x01#8 0x03#8) base) = some [.response [0x00#8, 0x00#8, 0x00#8, 0x00#8]] ∧
      after State.out (exec (.tblRead 0x01#8 0x04#8) base) = some [.response [0x04#8]] := by decide

/-! ### Radio -/

/-- RS5: 22 and 41 are rejected (a MAC and a PHY in DC), 40 is taken. -/
theorem test_radSend_allocates :
    after (fun s => (s.out, s.rp)) (exec (.radSend 0x33#8 [])
        { base with dc := [⟨0x22#8, 0x41#8⟩], draws := [drawOf 0x22, drawOf 0x41, drawOf 0x40] }) =
      some ([.openChannel 2 (pa 0x40), .stopListening, .writeFrame (pa 0x33) [0x05#8, 0x40#8] false, .startListening,
        .response [0x00#8]], [⟨0x33#8, 0x40#8⟩]) := by decide

/-- RS6: a cached peer, so its PHY and acknowledgement; 05 is rejected (self); the second RP slot is channel 3. -/
theorem test_radSend_cached :
    after State.out (exec (.radSend 0x22#8 [])
        { base with dc := [⟨0x22#8, 0x41#8⟩], rp := [⟨0x33#8, 0x40#8⟩], draws := [drawOf 0x05, drawOf 0x50] }) =
      some [.openChannel 3 (pa 0x50), .stopListening, .writeFrame (pa 0x41) [0x05#8, 0x50#8] true, .startListening,
        .response [0x00#8]] := by decide

/-- RS1 and W1. -/
theorem test_radBcast :
    after State.out (exec (.radBcast [0x68#8, 0x69#8]) base) =
      some [.stopListening, .writeFrame (pa 0x00) [0x05#8, 0x05#8, 0x68#8, 0x69#8] false, .startListening,
        .response [0x00#8]] := by decide

/-- RS13. -/
theorem test_radReinit :
    after (fun s => (s.out, s.radSelf, s.rp)) (exec .radReinit
        { base with rp := [⟨0x22#8, 0x40#8⟩], draws := [drawOf 0x30] }) =
      some ([.openChannel 0 (pa 0x00), .openChannel 1 (pa 0x30), .startListening, .response [0x00#8]], 0x30#8, []) := by
  decide

/-- RR6: a reply PHY of 0 is learned; RR4: a frame whose two addresses agree is delivered and not learned. -/
theorem test_radRx_learns :
    after (fun s => (s.out, s.dc)) (exec (.radRx [0x33#8, 0x00#8]) base) =
        some ([.deliver [] 0x00#8 0x33#8], [⟨0x33#8, 0x00#8⟩]) ∧
      after (fun s => (s.out, s.dc)) (exec (.radRx [0x22#8, 0x22#8, 0x01#8]) base) =
        some ([.deliver [0x01#8] 0x00#8 0x22#8], []) := by decide

/-- RR2 and RR9: one byte, and RAD_MAX + 3 bytes. -/
theorem test_radRx_discards :
    after (fun s => (s.out, s.dc)) (exec (.radRx [0x22#8]) base) = some ([], []) ∧
      after (fun s => (s.out, s.dc)) (exec (.radRx (0x44#8 :: 0x45#8 :: List.replicate 31 0x00#8)) base) =
        some ([], []) := by decide

/-! ### Serial -/

/-- C-5, C-12, C-3. -/
theorem test_crc16 :
    crc16 [0x31#8, 0x32#8, 0x33#8, 0x34#8, 0x35#8, 0x36#8, 0x37#8, 0x38#8, 0x39#8] = 0x31C3#16 ∧
      crc16 [0x0B#8, 0x03#8, 0x04#8, 0x00#8, 0x01#8, 0x02#8, 0x03#8, 0x04#8, 0x05#8, 0x06#8, 0x07#8, 0x08#8, 0x09#8,
        0x0A#8] = 0x69F2#16 ∧
      crc16 [0x80#8] = 0x9188#16 := by decide +kernel

/-- ST-4. -/
theorem test_stuff : stuff [0x7E#8, 0x7D#8, 0x20#8] = [0x7D#8, 0x5E#8, 0x7D#8, 0x5D#8, 0x20#8] := by decide

/-- S-E4: the escape byte in the payload. -/
theorem test_serSend_stuffs :
    after State.out (exec (.serSend 0x22#8 [0x7D#8]) { base with serSelf := 0x11#8 }) =
      some (([0x7E#8, 0x01#8, 0x11#8, 0x22#8, 0x7D#8, 0x5D#8, 0xCD#8, 0x59#8].map .writeByte) ++ [.response [0x00#8]]) := by
  decide +kernel

/-- S-E14: 12 bytes are one too many. -/
theorem test_serSend_too_long :
    after State.out (exec (.serSend 0x00#8 (List.replicate 12 0x00#8)) base) = some [.response [0x01#8]] := by decide

/-- S-E10: a CRC low byte of 7E is stuffed. -/
theorem test_serBcast :
    after State.out (exec (.serBcast [0x38#8]) base) =
      some (([0x7E#8, 0x01#8, 0x09#8, 0x00#8, 0x38#8, 0x5F#8, 0x7D#8, 0x5E#8].map .writeByte) ++ [.response [0x00#8]]) := by
  decide +kernel

/-- The example of R166: the serial engine's address only. -/
theorem test_serRedraw :
    after (fun s => (s.out, s.serSelf, s.radSelf)) (exec .serRedraw { base with draws := [drawOf 0x44] }) =
      some ([.response [0x00#8]], 0x44#8, 0x05#8) := by decide

/-- S-D12: a raw 7E after 7D is a preamble. -/
theorem test_serRxPreamble :
    after decoder (exec .serRxPreamble { midFrame with sdEsc := true }) = some (.collecting, false, 0#16, 0x87#8) := by decide

/-- S-D16: the flag is set in Dropping too. -/
theorem test_serRxEscape : after decoder (exec .serRxEscape base) = some (.dropping, true, 0#16, 0x00#8) := by decide

/-- S-D1, its last byte. -/
theorem test_serRxData_delivers :
    after (fun s => (s.out, decoder s)) (exec (.serRxData 0xCA#8) midFrame) =
      some ([.deliver [0x68#8, 0x69#8] 0x01#8 0x05#8], (.dropping, false, 7#16, 0x87#8)) := by decide +kernel

/-- Program P3, step 9: the filter compares with the new address at position 3. -/
theorem test_serRxData_filters :
    after (fun s => (s.out, decoder s)) (exec (.serRxData 0x68#8)
        { midFrame with serSelf := 0x44#8, sdPos := 3#16, sdBuf := [(0, 0x02#8), (1, 0x05#8), (2, 0x09#8)] }) =
      some ([], (.dropping, false, 3#16, 0x87#8)) := by decide

/-! ### Transactions that are no command, waits, reset -/

/-- Section 9: `FF 01 02` is EBADOP before EFMT, `21 00` is EFMT without a draw, `20 00 1F` + 30 bytes is EFMT before ELEN. -/
theorem test_malformed :
    after State.out (handleEvent (.command ⟨0xFF#8, [0x01#8, 0x02#8]⟩) base) = some [.response [0x02#8]] ∧
      after (fun s => (s.out, s.draws)) (handleEvent (.command ⟨0x21#8, [0x00#8]⟩) { base with draws := [drawOf 1] }) =
        some ([.response [0x03#8]], [drawOf 1]) ∧
      after State.out (handleEvent (.command ⟨0x20#8, 0x00#8 :: 0x1F#8 :: List.replicate 30 0x00#8⟩) base) =
        some [.response [0x03#8]] := by decide

/-- R241: a transceiver that accepts one more command stops the send after it, and no response is sent. -/
theorem test_hang :
    after (fun s => (s.out, s.stalled)) (exec (.radBcast []) { base with accepts := { Accepts.unlimited with radio := some 1 } }) =
      some ([.stopListening], some .radio) := by decide

/-- R230: a reset after two outputs abandons the send there, and a reset before the first abandons a command unanswered. -/
theorem test_reset_abandons :
    after (fun s => (s.out, s.cmdIn)) (step (planReset (some 2) (offerEvent (.command ⟨0x20#8, [0x00#8, 0x00#8]⟩) base))) =
        some ([.stopListening, .writeFrame (pa 0x00) [0x05#8, 0x05#8] false], []) ∧
      after (fun s => (s.out, s.cmdIn, s.resetTaken)) (step (planReset (some 0) (offerEvent (.command ⟨0x00#8, []⟩) base))) =
        some ([], [], true) := by decide

/-- R232, and R230: a reset inside the reset sequence, after its draw, leaves the sequence to begin again. -/
theorem test_reset_sequence :
    after (fun s => (s.radSelf, s.serSelf, s.out)) (step (assertReset { base with draws := [drawOf 7, drawOf 8] })) =
        some (0x07#8, 0x08#8, [.openChannel 0 (pa 0x00), .openChannel 1 (pa 0x07), .startListening]) ∧
      after (fun s => (s.radSelf, s.out, s.resetTaken))
          (step (planReset (some 1) (assertReset { base with draws := [drawOf 7, drawOf 8] }))) =
        some (0x07#8, [], true) := by decide

/-- R52: an access outside the frame buffer faults, and one inside does not. -/
theorem test_buffer_range :
    (memRead 16 base (fun _ => .next base) = .fault .sdBufRange) ∧
      (memRead 15 base (fun _ => .next base) = .next base) := ⟨rfl, rfl⟩

/-! ### Witnesses: a state and operands that meet the hypotheses of each statement, every clause at a boundary of its range -/

/-- A machine after some traffic: two learned peers, one reply pipe, a frame under way. -/
def busy : State :=
  { midFrame with dc := [⟨0x22#8, 0x41#8⟩, ⟨0x33#8, 0x00#8⟩], rp := [⟨0x11#8, 0x40#8⟩] }

/-- RP at capacity (program P4). -/
def fullRp : State :=
  { base with rp := [⟨0x11#8, 0x40#8⟩, ⟨0x12#8, 0x41#8⟩, ⟨0x13#8, 0x42#8⟩, ⟨0x14#8, 0x43#8⟩] }

/-- A decoder at a position, with the frame's length and destination in the buffer. -/
def decoderAt (pos : Half) (len dst : Byte) : State :=
  { base with sdState := .collecting, sdPos := pos, sdBuf := bufSet (bufSet [] 0 len) 2 dst }

theorem witness_base_ready : base.Ready := ⟨rfl, rfl, rfl⟩
theorem witness_busy_ready : busy.Ready := ⟨rfl, rfl, rfl⟩
theorem witness_fullRp_ready : fullRp.Ready := ⟨rfl, rfl, rfl⟩

theorem witness_config_valid : Config.test.Valid := by constructor <;> decide

theorem witness_base_inv : base.Inv := by
  constructor <;> first | exact witness_config_valid | decide | simp [base, Table.macsDistinct, Table.physDistinct]

theorem witness_busy_inv : busy.Inv where
  cfg := witness_config_valid
  radSelf := by decide
  serSelf := by decide
  dcCount := by decide
  rpCount := by decide
  dcMacs := by unfold Table.macsDistinct; decide
  rpMacs := by unfold Table.macsDistinct; decide
  rpMacNonzero := by decide
  rpPhy := by decide
  rpPhys := by unfold Table.physDistinct; decide
  bufWf := by decide
  bufRange := by decide
  pos := by decide
  frame := fun _ => .inr ⟨by decide, by decide⟩

/-- O1: the longest payload, a data byte next to the control bytes. -/
theorem witness_DecodeOfEncodeIsTheInstruction :
    (Instr.radSend 0xFF#8 (List.replicate 255 0x7E#8)).wellFormed = true ∧ (Instr.serRxData 0x7F#8).wellFormed = true := by
  decide +kernel

/-- O2: one event of each source. -/
theorem witness_EncodeOfDecodeIsTheEvent :
    decode (.command ⟨0x30#8, [0xFF#8, 0x00#8]⟩) = .ok (.serSend 0xFF#8 []) ∧ decode (.serRx 0x7D#8) = .ok .serRxEscape ∧
      decode (.radRx []) = .ok (.radRx []) := ⟨rfl, rfl, rfl⟩

/-- O3 and O8: the least and the greatest reserved opcode, and each way a length can be wrong. -/
theorem witness_malformedTransactions :
    (∀ b ∈ [0x02#8, 0xFF#8], b ∉ [0x00#8, 0x01#8, 0x10#8, 0x11#8, 0x12#8, 0x20#8, 0x21#8, 0x30#8, 0x31#8]) ∧
      [0x00#8].length ≠ 0 ∧ ([] : List Byte).length ≠ 1 ∧ [0x00#8].length ≠ 2 ∧ [0x00#8, 0x00#8].length ≠ 3 ∧
      (¬ ∃ (d n : Byte) (p : List Byte), [0x00#8, 0x01#8] = d :: n :: p ∧ p.length = n.toNat) := by
  refine ⟨by decide, by decide, by decide, by decide, by decide, ?_⟩
  rintro ⟨d, n, p, h, hn⟩
  simp at h
  obtain ⟨-, rfl, rfl⟩ := h
  exact absurd hn (by decide)

/-- O5: an event to take, a reserved opcode, a malformed length, and nothing. -/
theorem witness_StepRunsTheDecodedInstruction :
    base.resetTaken = false ∧ base.stalled = none ∧ takeEvent base = none ∧
      takeEvent { base with serIn := [0x7E#8] } = some (.serRx 0x7E#8, base) ∧ decode (.serRx 0x7E#8) = .ok .serRxPreamble ∧
      takeEvent { base with cmdIn := [⟨0x02#8, []⟩] } = some (.command ⟨0x02#8, []⟩, base) ∧
      decode (.command ⟨0x02#8, []⟩) = .error .reservedOpcode ∧
      decode (.command ⟨0x00#8, [0x00#8]⟩) = .error .malformedLength :=
  ⟨rfl, rfl, rfl, rfl, rfl, rfl, rfl, rfl⟩

/-- O6 and O7: all three sources pending, each chosen. -/
theorem witness_EventsAreTakenInArrivalOrder :
    let s : State := { base with cmdIn := [⟨0x00#8, []⟩], serIn := [0x41#8, 0x42#8], radIn := [[]] }
    takeEvent { s with arb := [.command] } = some (.command ⟨0x00#8, []⟩, { s with cmdIn := [] }) ∧
      takeEvent { s with arb := [.stream] } = some (.serRx 0x41#8, { s with serIn := [0x42#8] }) ∧
      takeEvent { s with arb := [.radio] } = some (.radRx [], { s with radIn := [] }) := ⟨rfl, rfl, rfl⟩

/-- O10: reset asserted now, and reset while the machine waits for ever; no reset planned, and one planned for later. -/
theorem witness_ResetSequenceRunsFromAnyState :
    (assertReset busy).resetTaken = true ∧ (assertReset (busy.waitFor .radio)).resetTaken = true ∧
      busy.accepts = Accepts.unlimited ∧ busy.resets.head?.join = none ∧
      (planReset (some 1) (planReset none busy)).resets.head?.join = none := ⟨rfl, rfl, rfl, rfl, rfl⟩

/-- O11: the least and the greatest draw. -/
theorem witness_DrawsRangeOverOneTo255 :
    (0x01#8 : Byte) ≠ 0x00#8 ∧ (0xFF#8 : Byte) ≠ 0x00#8 ∧ drawByte (drawOf 1) = 0x01#8 ∧ drawByte (drawOf 255) = 0xFF#8 := by
  decide

/-- O12, O20, O29: a ready machine, a transaction with one byte too many. -/
theorem witness_commandsWithoutOperands : base.Ready ∧ [0x00#8] ≠ ([] : List Byte) := ⟨witness_base_ready, by decide⟩

/-- O13: the last register and the first reserved number. -/
theorem witness_RegReadRespondsWithTheRegister :
    base.Ready ∧ (0x0D#8 : Byte).toNat ≤ 0x0D ∧ 0x0D < (0x0E#8 : Byte).toNat := ⟨witness_base_ready, by decide, by decide⟩

/-- O15: a hit in the second slot, a miss, a reserved selector. -/
theorem witness_TblLookupRespondsWithTheFirstMatch :
    busy.Ready ∧ busy.dc = [⟨0x22#8, 0x41#8⟩] ++ ⟨0x33#8, 0x00#8⟩ :: [] ∧ (∀ x ∈ [(⟨0x22#8, 0x41#8⟩ : Slot)], x.mac ≠ 0x33#8) ∧
      (∀ x ∈ busy.rp, x.mac ≠ 0x33#8) ∧ 1 < (0x02#8 : Byte).toNat ∧ [0x00#8].length ≠ 2 :=
  ⟨witness_busy_ready, rfl, by decide, by decide, by decide, by decide⟩

/-- O16: present as a PHY, absent as a MAC, a reserved selector or role. -/
theorem witness_TblContainsRespondsWithTheFlag :
    busy.Ready ∧ (∃ sl ∈ busy.dc, sl.phy = 0x41#8) ∧ (∀ sl ∈ busy.dc, sl.mac ≠ 0x41#8) ∧ 1 < (0x02#8 : Byte).toNat ∧
      [0x00#8, 0x00#8].length ≠ 3 := ⟨witness_busy_ready, by decide, by decide, by decide, by decide⟩

/-- O17: the last valid slot, the first slot above the count, the last slot number and the first that is reserved. -/
theorem witness_TblReadRespondsWithTheSlot :
    busy.Ready ∧ busy.dc[(0x01#8 : Byte).toNat]? = some ⟨0x33#8, 0x00#8⟩ ∧ busy.dc.length ≤ (0x02#8 : Byte).toNat ∧
      (0x09#8 : Byte).toNat < busy.cfg.dcCap ∧ busy.cfg.nch - 2 ≤ (0x04#8 : Byte).toNat :=
  ⟨witness_busy_ready, rfl, by decide, by decide, by decide⟩

/-- O18: a MAC that is present, one that is absent at capacity, one below it. -/
theorem witness_InsertionIsFirstWriterWins :
    tblLookup busy.dc 0x22#8 = some 0x41#8 ∧ (tblLookup fullRp.rp 0x15#8 = none ∧ fullRp.rp.length = 4) ∧
      (tblLookup busy.rp 0x15#8 = none ∧ busy.rp.length < 4) ∧ (0x16#8 : Byte) ≠ 0x15#8 := by decide

/-- O21: the frame lengths at both ends of both ranges; agreeing addresses, a known source, a full cache; a new source. -/
theorem witness_RadRxLearnsAndDelivers :
    base.Ready ∧ [0x22#8].length < 2 ∧ base.cfg.radMax + 2 < (List.replicate 33 0x00#8).length ∧
      (List.replicate 30 0x00#8).length ≤ base.cfg.radMax ∧ ([] : List Byte).length ≤ base.cfg.radMax ∧
      (∃ sl ∈ busy.dc, sl.mac = 0x22#8) ∧
      ({ base with cfg := { Config.test with dcCap := 2 }, dc := busy.dc } : State).dc.length = 2 ∧
      ((0x44#8 : Byte) ≠ 0x45#8 ∧ (∀ sl ∈ busy.dc, sl.mac ≠ 0x44#8) ∧ busy.dc.length < busy.cfg.dcCap) :=
  ⟨witness_base_ready, by decide, by decide, by decide, by decide, by decide, rfl, by decide⟩

/-- O22: exactly RAD_MAX bytes. -/
theorem witness_RadSendBroadcastUsesTheSharedChannel :
    base.Ready ∧ (List.replicate 30 0x00#8).length ≤ base.cfg.radMax := ⟨witness_base_ready, by decide⟩

/-- O23: a peer with a reply pipe and one more peer with RP full, one cached and one not. -/
theorem witness_RadSendWithoutAllocation :
    busy.Ready ∧ fullRp.Ready ∧ (0x11#8 : Byte) ≠ 0x00#8 ∧ ([] : List Byte).length ≤ busy.cfg.radMax ∧
      (tblLookup busy.dc 0x11#8 = none ∧ tblLookup busy.rp 0x11#8 = some 0x40#8) ∧
      (tblLookup { fullRp with dc := busy.dc }.dc 0x22#8 = some 0x41#8 ∧ tblLookup fullRp.rp 0x22#8 = none ∧
        fullRp.rp.length = fullRp.cfg.rpCap) :=
  ⟨witness_busy_ready, witness_fullRp_ready, by decide, by decide, by decide, by decide⟩

/-- O24 and O26: RS5, two draws rejected and the third free. -/
theorem witness_RadSendAllocatesTheFirstFreeDraw :
    let s : State := { base with dc := [⟨0x22#8, 0x41#8⟩], draws := [drawOf 0x22, drawOf 0x41] ++ drawOf 0x40 :: [] }
    s.Ready ∧ (0x33#8 : Byte) ≠ 0x00#8 ∧ ([] : List Byte).length ≤ s.cfg.radMax ∧ tblLookup s.dc 0x33#8 = none ∧
      tblLookup s.rp 0x33#8 = none ∧ s.rp.length < s.cfg.rpCap ∧ [drawOf 0x22, drawOf 0x41].length < s.cfg.allocTries ∧
      (∀ x ∈ [drawOf 0x22, drawOf 0x41], freePhy (drawByte x) s = false) ∧ freePhy (drawByte (drawOf 0x40)) s = true :=
  ⟨⟨rfl, rfl, rfl⟩, by decide +kernel, by decide +kernel, by decide +kernel, by decide +kernel, by decide +kernel, by decide +kernel, by decide +kernel, by decide +kernel⟩

/-- O25: two tries, both draws the node's own address. -/
theorem witness_RadSendFallsBackWhenNoDrawIsFree :
    let s : State := { base with cfg := { Config.test with allocTries := 2 }, draws := [drawOf 5, drawOf 5] ++ [] }
    s.Ready ∧ (0x22#8 : Byte) ≠ 0x00#8 ∧ ([0xAA#8] : List Byte).length ≤ s.cfg.radMax ∧ tblLookup s.dc 0x22#8 = none ∧
      tblLookup s.rp 0x22#8 = none ∧ s.rp.length < s.cfg.rpCap ∧ [drawOf 5, drawOf 5].length = s.cfg.allocTries ∧
      (∀ x ∈ [drawOf 5, drawOf 5], freePhy (drawByte x) s = false) :=
  ⟨⟨rfl, rfl, rfl⟩, by decide +kernel, by decide +kernel, by decide +kernel, by decide +kernel, by decide +kernel, by decide +kernel, by decide +kernel⟩

/-- O27: one byte more than RAD_MAX, and RAD_MAX. -/
theorem witness_RadioPayloadLimitIsRadMax :
    base.Ready ∧ base.cfg.radMax < (List.replicate 31 0x00#8).length ∧ (List.replicate 30 0x00#8).length ≤ base.cfg.radMax :=
  ⟨witness_base_ready, by decide, by decide⟩

/-- O28: exactly SER_MAX - 5 bytes, one more, and a transaction too short for its format. -/
theorem witness_SerSendWritesTheStuffedFrame :
    base.Ready ∧ (List.replicate 11 0x00#8).length ≤ base.cfg.serMax - 5 ∧
      base.cfg.serMax - 5 < (List.replicate 12 0x00#8).length ∧
      (¬ ∃ (d n : Byte) (p : List Byte), [0x00#8] = d :: n :: p ∧ p.length = n.toNat) :=
  ⟨witness_base_ready, by decide, by decide, by rintro ⟨d, n, p, h, -⟩; simp at h⟩

/-- O32: dropping; positions 0 and 2; position 3 with the least length and a wrong address the filter turns away; the CRC high byte
of an empty payload at position 3; a payload byte of the longest payload at its last position. -/
theorem witness_DataByteIsUnescapedFilteredAndStored :
    base.cfg.Valid ∧ base.sdState = .dropping ∧
      (decoderAt 0#16 0x00#8 0x00#8).sdPos.toNat ≤ 2 ∧ (decoderAt 2#16 0x00#8 0x00#8).sdPos.toNat ≤ 2 ∧
      (let s := decoderAt 3#16 0x0C#8 0x00#8
       s.sdState = .collecting ∧ 2 < s.sdPos.toNat ∧ s.cfg.serMax - 5 < (bufGet s.sdBuf 0).toNat) ∧
      (let s := decoderAt 3#16 0x00#8 0x22#8
       bufGet s.sdBuf 2 ≠ s.serSelf ∧ bufGet s.sdBuf 2 ≠ 0x00#8) ∧
      (let s := decoderAt 3#16 0x00#8 0x09#8
       (bufGet s.sdBuf 0).toNat ≤ s.cfg.serMax - 5 ∧ bufGet s.sdBuf 2 = s.serSelf ∧
         s.sdPos.toNat = (bufGet s.sdBuf 0).toNat + 3) ∧
      (let s := decoderAt 13#16 0x0B#8 0x00#8
       (bufGet s.sdBuf 0).toNat ≤ s.cfg.serMax - 5 ∧ bufGet s.sdBuf 2 = 0x00#8 ∧
         s.sdPos.toNat ≠ (bufGet s.sdBuf 0).toNat + 3 ∧ s.sdPos.toNat ≠ (bufGet s.sdBuf 0).toNat + 4 ∧
         s.sdPos.toNat < s.cfg.serMax) :=
  ⟨witness_config_valid, rfl, by decide, by decide, by decide, by decide, by decide, by decide⟩

/-- O33: S-D1 with the right CRC low byte and with a wrong one. -/
theorem witness_CrcLowByteDeliversOrDiscards :
    midFrame.cfg.Valid ∧ midFrame.Ready ∧ midFrame.sdState = .collecting ∧
      midFrame.sdPos.toNat = (bufGet midFrame.sdBuf 0).toNat + 4 ∧ (bufGet midFrame.sdBuf 0).toNat ≤ midFrame.cfg.serMax - 5 ∧
      bufGet midFrame.sdBuf 2 = 0x00#8 ∧
      crc16 ((List.range 5).map (bufGet midFrame.sdBuf)) = (midFrame.sdCrcHi ++ 0xCA#8 : BitVec (8 + 8)) ∧
      crc16 ((List.range 5).map (bufGet midFrame.sdBuf)) ≠ (midFrame.sdCrcHi ++ 0xCB#8 : BitVec (8 + 8)) :=
  ⟨witness_config_valid, ⟨rfl, rfl, rfl⟩, rfl, by decide, by decide, by decide, by decide +kernel, by decide +kernel⟩

/-- O34: the last index inside and the first outside; a buffer that is not empty. -/
theorem witness_BufferReadAfterWrite : 15 < base.cfg.serMax ∧ base.cfg.serMax ≤ 16 ∧ Buffer.wf midFrame.sdBuf := by decide

/-- O36: the top bit. -/
theorem witness_CrcDetectsEverySingleBitError : 7 < 8 := by decide

/-- O38 and O39: a sender and two receivers, one addressed and one not. -/
theorem witness_SerialRoundTripDeliversThePayload :
    base.Ready ∧ (∃ t, exec (.serSend 0x22#8 [0x68#8, 0x69#8]) base = .next t ∧
      t.out = base.out ++ [0x7E#8, 0x02#8, 0x09#8, 0x22#8, 0x68#8, 0x69#8, 0x20#8, 0x5E#8].map .writeByte
        ++ [.response [0x00#8]]) ∧
      busy.Inv ∧ busy.Ready ∧ ({ busy with serSelf := 0x22#8 } : State).serSelf = 0x22#8 ∧ busy.serSelf ≠ 0x22#8 :=
  ⟨witness_base_ready, after_some (by decide +kernel), witness_busy_inv, witness_busy_ready, rfl, by decide⟩

/-- O40 to O47, O50: each group of instructions has members that answer a next state. -/
theorem witness_execAnswersNext :
    (∃ t, exec (.tblRead 0x00#8 0x00#8) busy = .next t) ∧ (∃ t, exec .radReinit busy = .next t) ∧
      (∃ t, exec (.radBcast []) busy = .next t) ∧ (∃ t, exec (.radRx [0x44#8, 0x45#8]) busy = .next t) ∧
      (∃ t, exec .serRedraw busy = .next t) ∧ (∃ t, exec .serRxPreamble busy = .next t) ∧
      (∃ t, exec .serRxEscape busy = .next t) ∧ (∃ t, exec .nop busy.madeReady = .next t) :=
  ⟨⟨_, rfl⟩, ⟨_, rfl⟩, ⟨_, rfl⟩, ⟨_, rfl⟩, ⟨_, rfl⟩, ⟨_, rfl⟩, ⟨_, rfl⟩, ⟨_, rfl⟩⟩

/-- O43: a data byte that is stored and one that is not. -/
theorem witness_RawBytesTouchOnlyTheDecoder :
    storesByte (decoderAt 2#16 0x00#8 0x00#8) = true ∧ storesByte base = false ∧
      (∃ t, exec (.serRxData 0x41#8) (decoderAt 2#16 0x00#8 0x00#8) = .next t) ∧
      (∃ t, exec (.serRxData 0x41#8) base = .next t) := ⟨by decide, by decide, ⟨_, rfl⟩, ⟨_, rfl⟩⟩

/-- O48: a command that fails, and a transaction that is none. -/
theorem witness_FailedCommandsHaveNoEffect :
    base.Ready ∧ isCommand (.regRead 0x0E#8) = true ∧
      (∃ t, exec (.regRead 0x0E#8) base = .next t ∧ t.out = [] ++ [.response (0x04#8 :: [])]) ∧
      (∃ t, handleEvent (.command ⟨0x02#8, []⟩) base = .next t ∧ t.out = [] ++ [.response (0x02#8 :: [])]) ∧
      (0x04#8 : Byte) ≠ 0x00#8 ∧ (0x02#8 : Byte) ≠ 0x00#8 :=
  ⟨witness_base_ready, rfl, ⟨_, rfl, rfl⟩, ⟨_, rfl, rfl⟩, by decide, by decide⟩

/-- O49: a machine that waits for the transceiver, with an event pending. -/
theorem witness_HangStaysAHang :
    let s : State := { busy.waitFor .radio with serIn := [0x7E#8] }
    s.stalled = some .radio ∧ s.resetIn = none := ⟨rfl, rfl⟩

/-- O50: a send in full, before a transceiver that accepts one more command (and no reset), and cut by a reset after two
handshakes. -/
theorem witness_CutShortEventsEmitAPrefix :
    let s : State := { busy with accepts := { Accepts.unlimited with radio := some 1 } }
    let r : State := { busy with resetIn := some 2 }
    (∃ t u, exec (.radBcast []) s = .next t ∧ exec (.radBcast []) s.madeReady = .next u ∧
      t.out = busy.out ++ [.stopListening] ∧ u.out.length = busy.out.length + 4 ∧ s.resetIn = none ∧
      t.stalled = some .radio ∧ t.blocked .radio = true) ∧
    (∃ t u, exec (.radBcast []) r = .next t ∧ exec (.radBcast []) r.madeReady = .next u ∧
      t.out.length = busy.out.length + 2 ∧ u.out.length = busy.out.length + 4 ∧ t.resetIn = some 0) ∧
    (∃ t u, exec .nop busy = .next t ∧ exec .nop busy.madeReady = .next u ∧ t.madeReady = u) :=
  ⟨⟨_, _, rfl, rfl, rfl, rfl, rfl, rfl, rfl⟩, ⟨_, _, rfl, rfl, rfl, rfl, rfl⟩, ⟨_, _, rfl, rfl, rfl⟩⟩

/-- O51: a reset after two outputs, and one before the first, of an instruction, of a taken event and of a reset sequence. -/
theorem witness_ResetAbandonsTheEvent :
    (∃ t, exec (.radBcast []) { base with resetIn := some 2 } = .next t ∧ t.out.length = base.out.length + 2) ∧
      (∃ t, exec .nop { base with resetIn := some 0 } = .next t ∧ t.out.length = base.out.length + 0) ∧
      (∀ n : Nat, n = 0 ∨ n = 2 →
        let s := planReset (some n) (offerEvent (.command ⟨0x20#8, [0x00#8, 0x00#8]⟩) base)
        s.resetTaken = false ∧ s.stalled = none ∧ (takeEvent s).isSome = true ∧ s.resets = some n :: [] ∧
          ∃ t, step s = .next t ∧ t.out.length = base.out.length + n) ∧
      (planReset (some 1) (assertReset base)).resetTaken = true ∧
      (planReset (some 1) (assertReset base)).resets = some 1 :: [] ∧
      ∃ t, step (planReset (some 1) (assertReset base)) = .next t := by
  refine ⟨⟨_, rfl, rfl⟩, ⟨_, rfl, rfl⟩, ?_, rfl, rfl, _, rfl⟩
  rintro n (rfl | rfl) <;> exact ⟨rfl, rfl, rfl, rfl, _, rfl, rfl⟩

/-- O46 and O53 to O55: a machine with traffic behind it that takes one more byte. -/
theorem witness_StepKeepsTheInvariant :
    busy.Inv ∧ busy.Ready ∧ (∃ t, step { base with serIn := [0x7E#8] } = .next t) ∧ ({ base with serIn := [0x7E#8] } : State).Inv :=
  ⟨witness_busy_inv, witness_busy_ready, ⟨_, rfl⟩, by
    obtain ⟨h1, h2, h3, h4, h5, h6, h7, h8, h9, h10, h11, h12, h13, h14⟩ := witness_base_inv
    exact ⟨h1, h2, h3, h4, h5, h6, h7, h8, h9, h10, h11, h12, h13, h14⟩⟩

/-- O56: two buffers that agree below the position and differ above it. -/
theorem witness_UnwrittenBufferBytesAreNeverObserved :
    let s := decoderAt 3#16 0x02#8 0x09#8
    let m := bufSet s.sdBuf 4 0xAA#8
    Buffer.wf s.sdBuf ∧ Buffer.wf m ∧ (∀ j, s.written j → bufGet m j = bufGet s.sdBuf j) ∧ bufGet m 4 ≠ bufGet s.sdBuf 4 ∧
      ∃ t, exec (.serRxData 0x68#8) s = .next t := by
  refine ⟨by decide, by decide, fun j hj => bufGet_bufSet_other (fun h => ?_), by decide, ⟨_, rfl⟩⟩
  have h3 : j < (decoderAt 3#16 0x02#8 0x09#8).sdPos.toNat := hj.1
  have : (decoderAt 3#16 0x02#8 0x09#8).sdPos.toNat = 3 := rfl
  omega

/-- O57: the machine after reset with draws 05 and 09 and one reply pipe opened (program P2), and a machine in reset. -/
theorem witness_StepKeepsChannelsBound :
    let s : State := { base with
      rp := [⟨0x22#8, 0x40#8⟩]
      out := State.resetOutputs Config.test 0x05#8 ++ [.openChannel 2 (pa 0x40)]
      serIn := [0x7E#8] }
    s.accepts = Accepts.unlimited ∧ s.stalled = none ∧ s.ChannelsBound ∧ (∃ t, step s = .next t) ∧
      (assertReset s).resetTaken = true ∧ ∃ t, step (assertReset s) = .next t := by
  refine ⟨rfl, rfl, ⟨by decide, by decide, fun k sl h => ?_⟩, ⟨_, rfl⟩, rfl, _, rfl⟩
  rcases k with - | k
  · cases h; decide
  · cases h

end Sys2Proof.Tests
end

