-- ==== Sys2Proof/Proofs/SerStatus.lean ====
section
/-!
PROOF. `SER_STATUS` read field by field (spec/10_state.md R32): every field is found by dropping the fields below it.
-/
namespace Sys2Proof.Machine

@[simp] theorem readReg_serStatus (s : State) : readReg 0x04#8 s = some (serStatus s) := rfl

theorem dropBit_eq_ofBool (d : DecoderState) : dropBit d = BitVec.ofBool (decide (d = .dropping)) := by
  cases d <;> rfl

theorem serStatus_drop (s : State) : (serStatus s).getLsbD 0 = decide (s.sdState = .dropping) := by
  rw [serStatus, BitVec.getLsbD_append, dropBit_eq_ofBool]
  simp

theorem serStatus_esc (s : State) : (serStatus s).getLsbD 1 = s.sdEsc := by
  rw [serStatus, BitVec.getLsbD_append, BitVec.getLsbD_append]
  simp

theorem serStatus_reserved (s : State) : (serStatus s).extractLsb' 2 6 = 0#6 := by
  rw [serStatus, BitVec.extractLsb'_append_eq_of_le (by decide), BitVec.extractLsb'_append_eq_of_le (by decide),
    BitVec.extractLsb'_append_eq_right]

theorem serStatus_crcHi (s : State) : (serStatus s).extractLsb' 8 8 = s.sdCrcHi := by
  rw [serStatus, BitVec.extractLsb'_append_eq_of_le (by decide), BitVec.extractLsb'_append_eq_of_le (by decide),
    BitVec.extractLsb'_append_eq_of_le (by decide), BitVec.extractLsb'_append_eq_right]

theorem serStatus_pos (s : State) : (serStatus s).extractLsb' 16 16 = s.sdPos := by
  rw [serStatus, BitVec.extractLsb'_append_eq_of_le (by decide), BitVec.extractLsb'_append_eq_of_le (by decide),
    BitVec.extractLsb'_append_eq_of_le (by decide), BitVec.extractLsb'_append_eq_left]

theorem serStatus_reset : serStatus State.reset = 0x00000001#32 := rfl

/-- Settles O14: the register is `serStatus`, whose five fields R32 names, and the fields of the reset state pack to 1. -/
theorem serStatusBitsMirrorTheDecoder : Obligations.SerStatusBitsMirrorTheDecoder := by
  refine ⟨fun s => ⟨serStatus s, readReg_serStatus s, ?_⟩, ?_⟩
  · exact ⟨serStatus_drop s, serStatus_esc s, serStatus_reserved s, serStatus_crcHi s, serStatus_pos s⟩
  · rw [readReg_serStatus, serStatus_reset]

end Sys2Proof.Machine
end

