-- ==== Sys2Proof/Proofs/FrameBuffer.lean ====
section
/-!
PROOF. The accesses to the frame buffer (spec/20_memory.md R51): what they do inside `SER_MAX`, that they fault outside it, and that a
write is seen at its own index only.
-/
namespace Sys2Proof.Machine

theorem memRead_outside {i : Nat} {s : State} (h : s.cfg.serMax ≤ i) (k : Byte → Result) :
    memRead i s k = .fault .sdBufRange := if_neg (Nat.not_lt.mpr h)

theorem memWrite_outside {i : Nat} {v : Byte} {s : State} (h : s.cfg.serMax ≤ i) (k : State → Result) :
    memWrite i v s k = .fault .sdBufRange := if_neg (Nat.not_lt.mpr h)

theorem bufGet_bufSet {m : Buffer} (hm : Buffer.wf m) (i j : Nat) (v : Byte) :
    bufGet (bufSet m i v) j = if j = i then v else bufGet m j := by
  split
  case isTrue h => rw [h, bufGet_bufSet_same hm]
  case isFalse h => exact bufGet_bufSet_other h

/-- Settles O34: an access takes the branch its index selects, and the laws of the buffer give the read after a write. -/
theorem bufferReadAfterWrite : Obligations.BufferReadAfterWrite := by
  refine ⟨fun s i v kr kw => ⟨fun hin => ?_, fun hout => ?_⟩, fun m i v hm => ?_⟩
  · exact ⟨memRead_inside hin kr, memWrite_inside hin kw⟩
  · exact ⟨memRead_outside hout kr, memWrite_outside hout kw⟩
  · exact ⟨bufSet_wf hm i v, fun j => bufGet_bufSet hm i j v⟩

end Sys2Proof.Machine
end

section
/-!
PROOF. The decoder and the encoder (spec/30_encoding.md R70 to R75, R89, R92). The opcode map is read row by row once: operands of a
row's length make the command whose encoding they came from, and every other length is the malformed one of R73.
-/
namespace Sys2Proof

/-! ### The opcode map (R72, R74) -/

theorem row_of_findOpcode {b : Byte} {row : OpcodeRow} (h : findOpcode b = some row) : row ∈ opcodeMap ∧ row.byte = b :=
  ⟨List.mem_of_find?_eq_some h, eq_of_beq (List.find?_some (p := fun r : OpcodeRow => r.byte == b) h)⟩

theorem findOpcode_none_iff {b : Byte} : findOpcode b = none ↔ b ∉ opcodeMap.map OpcodeRow.byte := by
  simp [findOpcode]

/-! ### The lengths of the formats (R71, R73) -/

theorem formatFits_F0_iff {xs : List Byte} : formatFits .F0 xs = true ↔ xs.length = 0 := decide_eq_true_iff

theorem formatFits_F1_iff {xs : List Byte} : formatFits .F1 xs = true ↔ xs.length = 1 := decide_eq_true_iff

theorem formatFits_F2_iff {xs : List Byte} : formatFits .F2 xs = true ↔ xs.length = 2 := decide_eq_true_iff

theorem formatFits_F3_iff {xs : List Byte} : formatFits .F3 xs = true ↔ xs.length = 3 := decide_eq_true_iff

theorem formatFits_FS_iff {xs : List Byte} :
    formatFits .FS xs = true ↔ ∃ d n p, xs = d :: n :: p ∧ p.length = n.toNat := by
  match xs with
  | [] | [_] => simp [formatFits]
  | d :: n :: p => simp [formatFits]

/-- The length byte is determined by the payload it counts. -/
theorem payloadOperands_of_length {p : List Byte} {n : Byte} (h : p.length = n.toNat) (d : Byte) :
    payloadOperands d p = d :: n :: p := by
  rw [payloadOperands, h, BitVec.ofNat_toNat, BitVec.setWidth_eq]

theorem payloadFits_of_length {p : List Byte} {n : Byte} (h : p.length = n.toNat) : payloadFits p = true := by
  have := n.isLt
  simp only [payloadFits, decide_eq_true_eq]
  omega

/-- A transaction whose opcode is one of the nine and whose length is not its format's (R73), format by format. -/
def WrongLength (op : Byte) (xs : List Byte) : Prop :=
  (op ∈ [0x00#8, 0x21#8, 0x31#8] ∧ xs.length ≠ 0) ∨
  (op = 0x01#8 ∧ xs.length ≠ 1) ∨
  (op ∈ [0x10#8, 0x12#8] ∧ xs.length ≠ 2) ∨
  (op = 0x11#8 ∧ xs.length ≠ 3) ∨
  (op ∈ [0x20#8, 0x30#8] ∧ ¬ ∃ d n p, xs = d :: n :: p ∧ p.length = n.toNat)

theorem wrongLength_row_iff {row : OpcodeRow} (hrow : row ∈ opcodeMap) (xs : List Byte) :
    WrongLength row.byte xs ↔ formatFits row.format xs = false := by
  rw [← Bool.not_eq_true]
  fin_cases hrow <;>
    simp [WrongLength, formatFits_F0_iff, formatFits_F1_iff, formatFits_F2_iff, formatFits_F3_iff, formatFits_FS_iff]

theorem mem_opcodes_of_wrongLength {op : Byte} {xs : List Byte} (h : WrongLength op xs) :
    op ∈ opcodeMap.map OpcodeRow.byte := by
  obtain ⟨hop, -⟩ | ⟨rfl, -⟩ | ⟨hop, -⟩ | ⟨rfl, -⟩ | ⟨hop, -⟩ := h
  · fin_cases hop <;> decide
  · decide
  · fin_cases hop <;> decide
  · decide
  · fin_cases hop <;> decide

/-! ### Commands (R193: opcode, then length, then operands) -/

/-- Operands of the format's length make a command, and its encoding puts them back behind the row's opcode. -/
theorem commandOf_fits {row : OpcodeRow} (hrow : row ∈ opcodeMap) {xs : List Byte} (hfit : formatFits row.format xs = true) :
    ∃ i, commandOf row.opcode xs = some i ∧ i.wellFormed = true ∧ i.core = i ∧ encode i = .command ⟨row.byte, xs⟩ := by
  fin_cases hrow
  · obtain rfl := List.length_eq_zero_iff.mp (formatFits_F0_iff.mp hfit)
    exact ⟨.nop, rfl, rfl, rfl, rfl⟩
  · obtain ⟨r, rfl⟩ := List.length_eq_one_iff.mp (formatFits_F1_iff.mp hfit)
    exact ⟨.regRead r, rfl, rfl, rfl, rfl⟩
  · obtain ⟨t, m, rfl⟩ := List.length_eq_two.mp (formatFits_F2_iff.mp hfit)
    exact ⟨.tblLookup t m, rfl, rfl, rfl, rfl⟩
  · obtain ⟨t, role, v, rfl⟩ := List.length_eq_three.mp (formatFits_F3_iff.mp hfit)
    exact ⟨.tblContains t role v, rfl, rfl, rfl, rfl⟩
  · obtain ⟨t, k, rfl⟩ := List.length_eq_two.mp (formatFits_F2_iff.mp hfit)
    exact ⟨.tblRead t k, rfl, rfl, rfl, rfl⟩
  · obtain ⟨d, n, p, rfl, hp⟩ := formatFits_FS_iff.mp hfit
    exact ⟨.radSend d p, rfl, payloadFits_of_length hp, rfl, by rw [encode, payloadOperands_of_length hp]⟩
  · obtain rfl := List.length_eq_zero_iff.mp (formatFits_F0_iff.mp hfit)
    exact ⟨.radReinit, rfl, rfl, rfl, rfl⟩
  · obtain ⟨d, n, p, rfl, hp⟩ := formatFits_FS_iff.mp hfit
    exact ⟨.serSend d p, rfl, payloadFits_of_length hp, rfl, by rw [encode, payloadOperands_of_length hp]⟩
  · obtain rfl := List.length_eq_zero_iff.mp (formatFits_F0_iff.mp hfit)
    exact ⟨.serRedraw, rfl, rfl, rfl, rfl⟩

/-- Everything the decoder of commands can answer: the two refusals, or a command and the transaction it came from. -/
theorem decodeCommand_cases (t : Transaction) :
    (t.opcode ∉ opcodeMap.map OpcodeRow.byte ∧ decodeCommand t = .error .reservedOpcode) ∨
    (WrongLength t.opcode t.operands ∧ decodeCommand t = .error .malformedLength) ∨
    (t.opcode ∈ opcodeMap.map OpcodeRow.byte ∧ ¬ WrongLength t.opcode t.operands ∧
      ∃ i, decodeCommand t = .ok i ∧ i.wellFormed = true ∧ i.core = i ∧ encode i = .command t) := by
  cases hrow : findOpcode t.opcode with
  | none => exact .inl ⟨findOpcode_none_iff.mp hrow, by simp [decodeCommand, hrow]⟩
  | some row =>
    obtain ⟨hmem, hbyte⟩ := row_of_findOpcode hrow
    rw [← hbyte, wrongLength_row_iff hmem]
    cases hfit : formatFits row.format t.operands with
    | false => exact .inr (.inl ⟨rfl, by simp [decodeCommand, hrow, hfit]⟩)
    | true =>
      obtain ⟨i, hi, hwf, hcore, henc⟩ := commandOf_fits hmem hfit
      exact .inr (.inr ⟨List.mem_map_of_mem hmem, nofun, i, by simp [decodeCommand, hrow, hfit, hi], hwf, hcore,
        by rw [henc, hbyte]⟩)

theorem decodeCommand_reserved_iff {t : Transaction} :
    decodeCommand t = .error .reservedOpcode ↔ t.opcode ∉ opcodeMap.map OpcodeRow.byte := by
  obtain ⟨hop, h⟩ | ⟨hlen, h⟩ | ⟨hop, -, i, h, -⟩ := decodeCommand_cases t
  · exact iff_of_true h hop
  · exact iff_of_false (by simp [h]) (not_not_intro (mem_opcodes_of_wrongLength hlen))
  · exact iff_of_false (by simp [h]) (not_not_intro hop)

theorem decodeCommand_malformed_iff {t : Transaction} :
    decodeCommand t = .error .malformedLength ↔ WrongLength t.opcode t.operands := by
  obtain ⟨hop, h⟩ | ⟨hlen, h⟩ | ⟨-, hlen, i, h, -⟩ := decodeCommand_cases t
  · exact iff_of_false (by simp [h]) (fun hlen => hop (mem_opcodes_of_wrongLength hlen))
  · exact iff_of_true h hlen
  · exact iff_of_false (by simp [h]) hlen

theorem encode_of_decodeCommand {t : Transaction} {i : Instr} (h : decodeCommand t = .ok i) :
    i.wellFormed = true ∧ i.core = i ∧ encode i = .command t := by
  obtain ⟨-, h'⟩ | ⟨-, h'⟩ | ⟨-, -, j, h', hj⟩ := decodeCommand_cases t
  · simp [h'] at h
  · simp [h'] at h
  · obtain rfl : j = i := by simpa [h'] using h
    exact hj

/-! ### Raw bytes of the stream (R89) -/

theorem encode_decodeSerRx (b : Byte) :
    (decodeSerRx b).wellFormed = true ∧ (decodeSerRx b).core = decodeSerRx b ∧ encode (decodeSerRx b) = .serRx b := by
  by_cases hp : b = PREAMBLE
  · subst hp; exact ⟨rfl, rfl, rfl⟩
  by_cases he : b = ESC
  · subst he; exact ⟨rfl, rfl, rfl⟩
  have hdata : isDataByte b = true := by simp [isDataByte, hp, he]
  rw [decodeSerRx_data hdata]
  exact ⟨hdata, rfl, rfl⟩

/-! ### The statements -/

/-- Settles O1: one round trip per constructor; the payload's length byte is the payload's length. -/
theorem decodeOfEncodeIsTheInstruction : Obligations.DecodeOfEncodeIsTheInstruction := by
  intro i
  cases i with
  | nop => exact Laws.RoundTrip.nop
  | regRead r => exact Laws.RoundTrip.regRead r
  | tblLookup t m => exact Laws.RoundTrip.tblLookup t m
  | tblContains t role v => exact Laws.RoundTrip.tblContains t role v
  | tblRead t k => exact Laws.RoundTrip.tblRead t k
  | radSend d p => exact Laws.RoundTrip.radSend d p
  | radReinit => exact Laws.RoundTrip.radReinit
  | serSend d p => exact Laws.RoundTrip.serSend d p
  | serRedraw => exact Laws.RoundTrip.serRedraw
  | serBcast p => exact Laws.RoundTrip.serBcast p
  | radBcast p => exact Laws.RoundTrip.radBcast p
  | serRxPreamble => exact Laws.RoundTrip.serRxPreamble
  | serRxEscape => exact Laws.RoundTrip.serRxEscape
  | serRxData b => exact Laws.RoundTrip.serRxData b
  | radRx f => exact Laws.RoundTrip.radRx f

/-- Settles O2: a command that decodes fits its row's format, a raw byte keeps its class, a frame is carried whole. -/
theorem encodeOfDecodeIsTheEvent : Obligations.EncodeOfDecodeIsTheEvent := by
  intro e i h
  cases e with
  | command t => exact encode_of_decodeCommand h
  | serRx b => cases h; exact encode_decodeSerRx b
  | radRx f => cases h; exact ⟨rfl, rfl, rfl⟩

/-- Settles O3: the opcode map lists the nine opcodes, and each of its rows refuses the lengths that are not its format's. -/
theorem decodeRefusesReservedAndMalformed : Obligations.DecodeRefusesReservedAndMalformed := fun _ =>
  ⟨decodeCommand_reserved_iff, decodeCommand_malformed_iff⟩

/-- Settles O4: the decoder evaluates on each word. -/
theorem specWordsDecode : Obligations.SpecWordsDecode := ⟨rfl, rfl, rfl, rfl, rfl, rfl, rfl, rfl⟩

end Sys2Proof
end

section
/-!
PROOF. How the machine answers a transaction that is no command (spec/30_encoding.md R73, spec/43_control.md R193).
-/
namespace Sys2Proof.Machine

theorem handleEvent_reserved_ready {s : State} (hs : s.Ready) {e : Event} (h : decode e = .error .reservedOpcode) :
    handleEvent e s = .next (s.withOut [.response [0x02#8]]) := by
  rw [handleEvent, h]
  exact raiseStatus_ready hs .EBADOP

theorem handleEvent_malformed_ready {s : State} (hs : s.Ready) {e : Event} (h : decode e = .error .malformedLength) :
    handleEvent e s = .next (s.withOut [.response [0x03#8]]) := by
  rw [handleEvent, h]
  exact raiseStatus_ready hs .EFMT

/-- Settles O8: such a transaction does not decode, and its refusal names the status that answers it. -/
theorem malformedTransactionsAreAnsweredWithoutEffect : Obligations.MalformedTransactionsAreAnsweredWithoutEffect := by
  intro s t hs
  obtain ⟨hreserved, hmalformed⟩ := decodeRefusesReservedAndMalformed t
  exact ⟨fun h => handleEvent_reserved_ready hs (hreserved.mpr h),
    fun h => handleEvent_malformed_ready hs (hmalformed.mpr h)⟩

end Sys2Proof.Machine
end

section
/-!
PROOF. The broadcast send and its pseudo-instruction (spec/41_radio_dispatcher.md R127 to R134, spec/30_encoding.md R92).
-/
namespace Sys2Proof.Machine

theorem radSend_within {s : State} {d : Byte} {p : List Byte} (h : p.length ≤ s.cfg.radMax) :
    radSend d p s = radReply d s (radTransmit (radPipe d s).1 (radPipe d s).2 · p) :=
  if_neg (Nat.not_lt.mpr h)

theorem radPipe_broadcast (s : State) : radPipe BCAST_MAC s = (physAddr s.cfg BCAST_PHY, false) := if_pos rfl

theorem radReply_broadcast (s : State) (k : Byte → State → Result) : radReply BCAST_MAC s k = k s.radSelf s := if_pos rfl

theorem radSend_broadcast_ready {s : State} {p : List Byte} (hs : s.Ready) (h : p.length ≤ s.cfg.radMax) :
    radSend BCAST_MAC p s = .next (s.withOut
      [.stopListening, .writeFrame (physAddr s.cfg BCAST_PHY) (s.radSelf :: s.radSelf :: p) false, .startListening,
        .response [0x00#8]]) := by
  rw [radSend_within h, radPipe_broadcast, radReply_broadcast, radTransmit_ready hs]

/-- Settles O22: both mnemonics run the one send to destination 0. -/
theorem radSendBroadcastUsesTheSharedChannel : Obligations.RadSendBroadcastUsesTheSharedChannel := fun _ _ hs h =>
  ⟨radSend_broadcast_ready hs h, radSend_broadcast_ready hs h⟩

end Sys2Proof.Machine
end

section
/-!
PROOF. The table read commands (spec/40_address_tables.md R106 to R108): the selector and role operands once, the primitives each
command answers from, and what each command answers for a table named by its selector.
-/
namespace Sys2Proof.Machine

/-! ### Operands (R74) -/

theorem exists_tableOperand {s : State} {t : Byte} {tab : Table}
    (h : (t = 0x00#8 ∧ tab = s.dc) ∨ (t = 0x01#8 ∧ tab = s.rp)) : ∃ sel, tableOperand t = some sel ∧ tab = s.table sel := by
  obtain ⟨rfl, rfl⟩ | ⟨rfl, rfl⟩ := h
  · exact ⟨.DC, rfl, rfl⟩
  · exact ⟨.RP, rfl, rfl⟩

theorem exists_tableOperand_cap {s : State} {t : Byte} {tab : Table} {cap : Nat}
    (h : (t = 0x00#8 ∧ tab = s.dc ∧ cap = s.cfg.dcCap) ∨ (t = 0x01#8 ∧ tab = s.rp ∧ cap = s.cfg.nch - 2)) :
    ∃ sel, tableOperand t = some sel ∧ tab = s.table sel ∧ cap = tableCap s.cfg sel := by
  obtain ⟨rfl, rfl, rfl⟩ | ⟨rfl, rfl, rfl⟩ := h
  · exact ⟨.DC, rfl, rfl, rfl⟩
  · exact ⟨.RP, rfl, rfl, rfl⟩

theorem ne_of_one_lt_toNat {b : Byte} (h : 1 < b.toNat) : b ≠ 0x00#8 ∧ b ≠ 0x01#8 := by
  constructor <;> (rintro rfl; exact absurd h (by decide))

theorem tableOperand_reserved {t : Byte} (h : 1 < t.toNat) : tableOperand t = none := by
  simp [tableOperand, ne_of_one_lt_toNat h]

theorem roleOperand_reserved {role : Byte} (h : 1 < role.toNat) : roleOperand role = none := by
  simp [roleOperand, ne_of_one_lt_toNat h]

/-- The field of a slot that a role compares (R103). -/
def roleField : Role → Slot → Byte
  | .MAC => Slot.mac
  | .PHY => Slot.phy

theorem exists_roleOperand {role : Byte} {field : Slot → Byte}
    (h : (role = 0x00#8 ∧ field = Slot.mac) ∨ (role = 0x01#8 ∧ field = Slot.phy)) :
    ∃ r, roleOperand role = some r ∧ field = roleField r := by
  obtain ⟨rfl, rfl⟩ | ⟨rfl, rfl⟩ := h
  · exact ⟨.MAC, rfl, rfl⟩
  · exact ⟨.PHY, rfl, rfl⟩

/-! ### The primitives (R101, R103) -/

/-- The first slot holding the MAC decides, so a table searched before another one answers first. -/
theorem tblLookup_append (t u : Table) (mac : Byte) : tblLookup (t ++ u) mac = (tblLookup t mac).or (tblLookup u mac) := by
  induction t with
  | nil => rfl
  | cons sl t ih =>
    by_cases h : sl.mac = mac
    · simp [tblLookup, h]
    · simp [tblLookup, h, ih]

theorem tblLookup_first {before after : Table} {sl : Slot} (h : ∀ x ∈ before, x.mac ≠ sl.mac) :
    tblLookup (before ++ sl :: after) sl.mac = some sl.phy := by
  simp [tblLookup_append, tblLookup_none.mpr h, tblLookup]

theorem tblContains_iff {t : Table} {v : Byte} {r : Role} : tblContains t v r = true ↔ ∃ sl ∈ t, roleField r sl = v := by
  cases r with
  | MAC => exact tblContains_mac
  | PHY => exact tblContains_phy

theorem tblContains_eq_false {t : Table} {v : Byte} {r : Role} (h : ∀ sl ∈ t, roleField r sl ≠ v) :
    tblContains t v r = false := by
  rw [← Bool.not_eq_true, tblContains_iff]
  rintro ⟨sl, hsl, hv⟩
  exact h sl hsl hv

/-! ### The commands before collaborators that accept -/

section
variable {s : State} (hs : s.Ready) {t : Byte} {sel : TableSel}
include hs

theorem handleEvent_wrongLength_ready {tr : Transaction} (h : WrongLength tr.opcode tr.operands) :
    handleEvent (.command tr) s = .next (s.withOut [.response [0x03#8]]) :=
  handleEvent_malformed_ready hs (decodeCommand_malformed_iff.mpr h)

theorem exec_tblLookup_ready (hsel : tableOperand t = some sel) (m : Byte) :
    exec (.tblLookup t m) s = .next (s.withOut [.response (0x00#8 :: lookupResult (tblLookup (s.table sel) m))]) := by
  simp only [exec, execTblLookup, hsel, respond_ready hs]

theorem exec_tblLookup_reserved_ready (ht : tableOperand t = none) (m : Byte) :
    exec (.tblLookup t m) s = .next (s.withOut [.response [0x04#8]]) := by
  simp only [exec, execTblLookup, ht, raiseStatus_ready hs, statusCode]

theorem exec_tblContains_ready {role : Byte} {r : Role} (hsel : tableOperand t = some sel) (hr : roleOperand role = some r)
    (v : Byte) : exec (.tblContains t role v) s =
      .next (s.withOut [.response [0x00#8, if tblContains (s.table sel) v r then 0x01#8 else 0x00#8]]) := by
  simp only [exec, execTblContains, hsel, hr, respond_ready hs]

theorem exec_tblContains_reserved_ready {role : Byte} (h : tableOperand t = none ∨ roleOperand role = none) (v : Byte) :
    exec (.tblContains t role v) s = .next (s.withOut [.response [0x04#8]]) := by
  obtain ht | hr := h
  · simp only [exec, execTblContains, ht, raiseStatus_ready hs, statusCode]
  · cases ht : tableOperand t with
    | none => simp only [exec, execTblContains, ht, raiseStatus_ready hs, statusCode]
    | some sel => simp only [exec, execTblContains, ht, hr, raiseStatus_ready hs, statusCode]

theorem exec_tblRead_ready {k : Byte} (hsel : tableOperand t = some sel) (hk : k.toNat < tableCap s.cfg sel) :
    exec (.tblRead t k) s = .next (s.withOut [.response (0x00#8 :: slotResult (s.table sel)[k.toNat]?)]) := by
  simp only [exec, execTblRead, hsel, if_neg (Nat.not_le.mpr hk), respond_ready hs]

theorem exec_tblRead_reserved_ready (ht : tableOperand t = none) (k : Byte) :
    exec (.tblRead t k) s = .next (s.withOut [.response [0x04#8]]) := by
  simp only [exec, execTblRead, ht, raiseStatus_ready hs, statusCode]

theorem exec_tblRead_beyond_capacity_ready {k : Byte} (hsel : tableOperand t = some sel) (hk : tableCap s.cfg sel ≤ k.toNat) :
    exec (.tblRead t k) s = .next (s.withOut [.response [0x04#8]]) := by
  simp only [exec, execTblRead, hsel, if_pos hk, raiseStatus_ready hs, statusCode]

end

/-! ### The statements -/

/-- Settles O15: the command answers from `lookup`, which the first slot holding the MAC decides. -/
theorem tblLookupRespondsWithTheFirstMatch : Obligations.TblLookupRespondsWithTheFirstMatch := by
  intro s t m hs
  refine ⟨fun tab htab => ?_, fun ht => ?_, fun xs hxs => ?_⟩
  · obtain ⟨sel, hsel, rfl⟩ := exists_tableOperand htab
    rw [exec_tblLookup_ready hs hsel]
    refine ⟨fun before sl after htab hm hfirst => ?_, fun hmiss => ?_⟩
    · subst hm
      rw [htab, tblLookup_first hfirst, lookupResult]
    · rw [tblLookup_none.mpr hmiss, lookupResult]
  · exact exec_tblLookup_reserved_ready hs (tableOperand_reserved ht) m
  · exact handleEvent_wrongLength_ready hs (.inr (.inr (.inl ⟨by simp, hxs⟩)))

/-- Settles O16: the command answers from `contains`, which is a search for the value in the field of the role. -/
theorem tblContainsRespondsWithTheFlag : Obligations.TblContainsRespondsWithTheFlag := by
  intro s t role v hs
  refine ⟨fun tab htab field hfield => ?_, fun hreserved => ?_, fun xs hxs => ?_⟩
  · obtain ⟨sel, hsel, rfl⟩ := exists_tableOperand htab
    obtain ⟨r, hr, rfl⟩ := exists_roleOperand hfield
    rw [exec_tblContains_ready hs hsel hr]
    refine ⟨fun hfound => ?_, fun hmiss => ?_⟩
    · rw [if_pos (tblContains_iff.mpr hfound)]
    · rw [tblContains_eq_false hmiss, if_neg Bool.false_ne_true]
  · exact exec_tblContains_reserved_ready hs (hreserved.imp tableOperand_reserved roleOperand_reserved) v
  · exact handleEvent_wrongLength_ready hs (.inr (.inr (.inr (.inl ⟨rfl, hxs⟩))))

/-- Settles O17: the capacity is tested first, then the slot is there or at or above the count. -/
theorem tblReadRespondsWithTheSlot : Obligations.TblReadRespondsWithTheSlot := by
  intro s t k hs
  refine ⟨fun tab cap htab => ?_, fun ht => ?_, fun xs hxs => ?_⟩
  · obtain ⟨sel, hsel, rfl, rfl⟩ := exists_tableOperand_cap htab
    refine ⟨exec_tblRead_beyond_capacity_ready hs hsel, fun sl hk hsl => ?_, fun hk hempty => ?_⟩
    · rw [exec_tblRead_ready hs hsel hk, hsl, slotResult]
    · rw [exec_tblRead_ready hs hsel hk, List.getElem?_eq_none hempty, slotResult]
  · exact exec_tblRead_reserved_ready hs (tableOperand_reserved ht) k
  · exact handleEvent_wrongLength_ready hs (.inr (.inr (.inl ⟨by simp, hxs⟩)))

end Sys2Proof.Machine
end

section
/-!
PROOF. Insertion into an address table (spec/40_address_tables.md R102, R105).
-/
namespace Sys2Proof.Machine

theorem tblTryInsert_present {t : Table} {mac p : Byte} (h : tblLookup t mac = some p) (cap : Nat) (phy : Byte) :
    tblTryInsert cap t mac phy = (true, t) := by
  simp [tblTryInsert, h]

theorem tblTryInsert_full {cap : Nat} {t : Table} {mac : Byte} (h : tblLookup t mac = none) (hc : t.length = cap)
    (phy : Byte) : tblTryInsert cap t mac phy = (false, t) := by
  simp [tblTryInsert, h, hc]

theorem tblLookup_append_same {t : Table} {mac : Byte} (h : tblLookup t mac = none) (phy : Byte) :
    tblLookup (t ++ [⟨mac, phy⟩]) mac = some phy :=
  tblLookup_first (sl := ⟨mac, phy⟩) (tblLookup_none.mp h)

theorem tblLookup_append_other {m mac : Byte} (h : m ≠ mac) (t : Table) (phy : Byte) :
    tblLookup (t ++ [⟨mac, phy⟩]) m = tblLookup t m := by
  simp [tblLookup_append, tblLookup, h.symm]

/-- Settles O18: the three branches of the insertion, and a lookup after the one that appends. -/
theorem insertionIsFirstWriterWins : Obligations.InsertionIsFirstWriterWins := by
  intro cap t mac phy
  refine ⟨fun p hp => ?_, fun hfresh hfull => ?_, fun hfresh hroom => ?_, fun m hm => ?_⟩
  · exact tblTryInsert_present hp cap phy
  · exact tblTryInsert_full hfresh hfull phy
  · rw [tblTryInsert_fresh hfresh hroom.ne]
    exact ⟨rfl, tblLookup_append_same hfresh phy⟩
  · obtain ⟨h, -⟩ | ⟨h, -⟩ := tblTryInsert_cases cap t mac phy
    · rw [h]
    · rw [h, tblLookup_append_other hm]

end Sys2Proof.Machine
end

section
/-!
PROOF. The life of the table entries (spec/40_address_tables.md R104). An instruction other than `RAD_REINIT` keeps "the tables
of the state it began in are beginnings of the tables now"; the two operations that run `RadioInit` keep it, or leave both tables empty.
-/
namespace Sys2Proof.Machine

/-- Each table of `s` is a beginning of the same table of `t`. -/
def TablesGrow (s t : State) : Prop := s.dc <+: t.dc ∧ s.rp <+: t.rp

/-- The tables have grown, or both were reset. -/
def TablesGrowOrReset (s t : State) : Prop := TablesGrow s t ∨ (t.dc = [] ∧ t.rp = [])

theorem TablesGrow.refl (s : State) : TablesGrow s s := ⟨List.prefix_rfl, List.prefix_rfl⟩

theorem steady_tablesGrow (s : State) : Steady (TablesGrow s) := ⟨fun _ _ _ _ h => h, fun _ _ h => h⟩

theorem steady_tablesGrowOrReset (s : State) : Steady (TablesGrowOrReset s) := ⟨fun _ _ _ _ h => h, fun _ _ h => h⟩

theorem TablesGrow.drawn {s t : State} (h : TablesGrow s t) : TablesGrow s t.drawn := by
  simpa [TablesGrow] using h

theorem TablesGrowOrReset.drawn {s t : State} (h : TablesGrowOrReset s t) : TablesGrowOrReset s t.drawn := by
  simpa [TablesGrowOrReset, TablesGrow] using h

theorem prefix_tblTryInsert (cap : Nat) (t : Table) (mac phy : Byte) : t <+: (tblTryInsert cap t mac phy).2 := by
  obtain ⟨h, -⟩ | ⟨h, -⟩ := tblTryInsert_cases cap t mac phy
  · rw [h]
  · exact h ▸ List.prefix_append t _

theorem TablesGrow.insert_dc {s t : State} (h : TablesGrow s t) (mac phy : Byte) :
    TablesGrow s { t with dc := (tblTryInsert t.cfg.dcCap t.dc mac phy).2 } :=
  ⟨h.1.trans (prefix_tblTryInsert ..), h.2⟩

theorem TablesGrow.insert_rp {s t : State} (h : TablesGrow s t) (mac phy : Byte) :
    TablesGrow s { t with rp := (tblTryInsert t.cfg.rpCap t.rp mac phy).2 } :=
  ⟨h.1, h.2.trans (prefix_tblTryInsert ..)⟩

/-! ### Instructions -/

theorem execRegRead_keeps {P : State → Prop} (hP : Steady P) {r : Byte} {s t : State} (hs : P s)
    (h : execRegRead r s = .next t) : P t := by
  unfold execRegRead at h
  split at h
  · exact respond_keeps hP hs h
  · exact raiseStatus_keeps hP hs h

theorem execTblLookup_keeps {P : State → Prop} (hP : Steady P) {a m : Byte} {s t : State} (hs : P s)
    (h : execTblLookup a m s = .next t) : P t := by
  unfold execTblLookup at h
  split at h
  · exact raiseStatus_keeps hP hs h
  · exact respond_keeps hP hs h

theorem execTblContains_keeps {P : State → Prop} (hP : Steady P) {a role v : Byte} {s t : State} (hs : P s)
    (h : execTblContains a role v s = .next t) : P t := by
  unfold execTblContains at h
  split at h
  · exact respond_keeps hP hs h
  · exact raiseStatus_keeps hP hs h

theorem execTblRead_keeps {P : State → Prop} (hP : Steady P) {a k : Byte} {s t : State} (hs : P s)
    (h : execTblRead a k s = .next t) : P t := by
  unfold execTblRead at h
  split at h
  · exact raiseStatus_keeps hP hs h
  · split at h
    · exact raiseStatus_keeps hP hs h
    · exact respond_keeps hP hs h

theorem learn_tablesGrow (src reply : Byte) (s : State) : TablesGrow s (learn src reply s) := by
  unfold learn
  split
  · exact .refl s
  · exact (TablesGrow.refl s).insert_dc src reply

theorem execRadRx_tablesGrow {f : List Byte} {s t : State} (h : execRadRx f s = .next t) : TablesGrow s t := by
  unfold execRadRx at h
  split at h
  · split at h
    · cases h; exact .refl s
    · exact emit_keeps (steady_tablesGrow s) (fun s' hs' h' => by cases h'; exact hs') (learn_tablesGrow _ _ s) h
  · cases h; exact .refl s

theorem radSend_tablesGrow {d : Byte} {p : List Byte} {s t : State} (h : radSend d p s = .next t) : TablesGrow s t :=
  radSend_keeps (steady_tablesGrow s) (fun _ _ h => h.drawn) (fun _ d c h _ _ _ => h.insert_rp d c) (.refl s) h

theorem execSerRedraw_tablesGrow {s t : State} (h : execSerRedraw s = .next t) : TablesGrow s t :=
  draw_keeps (steady_tablesGrow s) (fun _ h => h.drawn)
    (respond_keeps (steady_tablesGrow s) (s := { s.drawn with serSelf := s.nextDraw })) (.refl s) h

/-- The serial decoder writes no table. -/
theorem collectByte_tablesGrow {x : Byte} {s t : State} (h : collectByte x s = .next t) : TablesGrow s t := by
  obtain ⟨-, rfl⟩ | ⟨-, -, -, rfl⟩ | ⟨-, -, -, rfl⟩ | ⟨-, -, -, -, rfl⟩ | ⟨-, -, -, -, h⟩ := collectByte_next h
  · exact .refl t
  · exact .refl s
  · exact .refl s
  · exact .refl s
  · exact emit_keeps (steady_tablesGrow s) (fun s' hs' h' => by cases h'; exact hs') (.refl s) h

theorem exec_tablesGrow {i : Instr} {s t : State} (hi : i ≠ .radReinit) (h : exec i s = .next t) : TablesGrow s t := by
  cases i with
  | nop => exact respond_keeps (steady_tablesGrow s) (.refl s) h
  | regRead r => exact execRegRead_keeps (steady_tablesGrow s) (.refl s) h
  | tblLookup a m => exact execTblLookup_keeps (steady_tablesGrow s) (.refl s) h
  | tblContains a role v => exact execTblContains_keeps (steady_tablesGrow s) (.refl s) h
  | tblRead a k => exact execTblRead_keeps (steady_tablesGrow s) (.refl s) h
  | radSend d p => exact radSend_tablesGrow h
  | radReinit => exact absurd rfl hi
  | serSend d p => exact serSend_keeps (steady_tablesGrow s) (.refl s) h
  | serRedraw => exact execSerRedraw_tablesGrow h
  | serBcast p => exact serSend_keeps (steady_tablesGrow s) (.refl s) h
  | radBcast p => exact radSend_tablesGrow h
  | serRxPreamble => cases h; exact .refl s
  | serRxEscape => cases h; exact .refl s
  | serRxData b => exact collectByte_tablesGrow (s := { s with sdEsc := false }) h
  | radRx f => exact execRadRx_tablesGrow h

/-! ### Radio initialization, events, steps -/

theorem radioInit_tablesGrowOrReset {s₀ s t : State} {k : State → Result}
    (hk : ∀ s', TablesGrowOrReset s₀ s' → k s' = .next t → TablesGrowOrReset s₀ t) (hs : TablesGrowOrReset s₀ s)
    (h : radioInit s k = .next t) : TablesGrowOrReset s₀ t :=
  radioInit_keeps (steady_tablesGrowOrReset s₀) (fun _ h => h.drawn) (fun _ _ _ => .inr ⟨rfl, rfl⟩) hk hs h

theorem exec_tablesGrowOrReset {i : Instr} {s t : State} (h : exec i s = .next t) : TablesGrowOrReset s t := by
  by_cases hi : i = .radReinit
  · subst hi
    exact radioInit_tablesGrowOrReset (fun _ hs' h' => respond_keeps (steady_tablesGrowOrReset s) hs' h') (.inl (.refl s)) h
  · exact .inl (exec_tablesGrow hi h)

theorem answerMalformed_tablesGrow {e : DecodeError} {s t : State} (h : answerMalformed e s = .next t) : TablesGrow s t := by
  cases e with
  | reservedOpcode => exact raiseStatus_keeps (steady_tablesGrow s) (.refl s) h
  | malformedLength => exact raiseStatus_keeps (steady_tablesGrow s) (.refl s) h

theorem handleEvent_tablesGrowOrReset {e : Event} {s t : State} (h : handleEvent e s = .next t) : TablesGrowOrReset s t := by
  unfold handleEvent at h
  split at h
  · exact exec_tablesGrowOrReset h
  · exact .inl (answerMalformed_tablesGrow h)

theorem serialInit_keeps_tablesGrowOrReset {s₀ s t : State} (hs : TablesGrowOrReset s₀ s) (h : serialInit s = .next t) :
    TablesGrowOrReset s₀ t :=
  draw_keeps (steady_tablesGrowOrReset s₀) (fun _ h => h.drawn) (fun hs' h' => by cases h'; exact hs') hs h

theorem resetSequence_tablesGrowOrReset {s t : State} (h : resetSequence s = .next t) : TablesGrowOrReset s t :=
  radioInit_tablesGrowOrReset (s := { s.begun with stalled := none }) (fun _ => serialInit_keeps_tablesGrowOrReset)
    (.inl (.refl s)) h

theorem choose_tables {s s' : State} {p : Source} (h : s.choose = some (p, s')) : s'.dc = s.dc ∧ s'.rp = s.rp := by
  unfold State.choose at h
  split at h
  · cases h
  · cases h; exact ⟨rfl, rfl⟩
  · split at h
    · split at h
      · cases h; exact ⟨rfl, rfl⟩
      · cases h; exact ⟨rfl, rfl⟩
    · cases h; exact ⟨rfl, rfl⟩

theorem takeFrom_tables {s s' : State} {p : Source} {e : Event} (h : s.takeFrom p = some (e, s')) :
    s'.dc = s.dc ∧ s'.rp = s.rp := by
  unfold State.takeFrom at h
  split at h
  all_goals
    split at h
    · cases h; exact ⟨rfl, rfl⟩
    · cases h

/-- Taking an event touches no table. -/
theorem takeEvent_tables {s s' : State} {e : Event} (h : takeEvent s = some (e, s')) : s'.dc = s.dc ∧ s'.rp = s.rp := by
  unfold takeEvent at h
  split at h
  · rename_i p s₁ hchoose
    obtain ⟨hdc, hrp⟩ := choose_tables hchoose
    obtain ⟨hdc', hrp'⟩ := takeFrom_tables h
    exact ⟨hdc'.trans hdc, hrp'.trans hrp⟩
  · cases h

theorem step_tablesGrowOrReset {s t : State} (h : step s = .next t) : TablesGrowOrReset s t := by
  unfold step at h
  split at h
  · exact resetSequence_tablesGrowOrReset h
  · split at h
    · cases h; exact .inl (.refl s)
    · split at h
      · cases h; exact .inl (.refl s)
      · rename_i e s' htake
        obtain ⟨hdc, hrp⟩ := takeEvent_tables htake
        simpa [TablesGrowOrReset, TablesGrow, hdc, hrp] using handleEvent_tablesGrowOrReset h

/-- Settles O45: an instruction other than `RAD_REINIT` writes a table by insertion only, and `RadioInit` empties both. -/
theorem tablesOnlyGrowUntilResetTogether : Obligations.TablesOnlyGrowUntilResetTogether :=
  ⟨fun _ _ _ => exec_tablesGrow, fun _ _ => step_tablesGrowOrReset⟩

end Sys2Proof.Machine
end

section
/-!
PROOF. The radio receive path (spec/41_radio_dispatcher.md R123 to R126): the frame lengths that are discarded, and what the
learning step does to DC in each case of R124.
-/
namespace Sys2Proof.Machine

/-! ### Learning (R124) -/

theorem learn_same (a : Byte) (s : State) : learn a a s = s := if_pos rfl

theorem learn_of_ne {src reply : Byte} (h : src ≠ reply) (s : State) :
    learn src reply s = { s with dc := (tblTryInsert s.cfg.dcCap s.dc src reply).2 } := if_neg h

theorem tblTryInsert_of_mem {t : Table} {mac : Byte} (h : ∃ sl ∈ t, sl.mac = mac) (cap : Nat) (phy : Byte) :
    tblTryInsert cap t mac phy = (true, t) := by
  obtain ⟨sl, hsl, hmac⟩ := h
  have hfound : tblLookup t mac ≠ none := fun hnone => tblLookup_none.mp hnone sl hsl hmac
  obtain ⟨p, hp⟩ := Option.ne_none_iff_exists'.mp hfound
  exact tblTryInsert_present hp cap phy

theorem tblTryInsert_at_capacity {cap : Nat} {t : Table} (h : t.length = cap) (mac phy : Byte) :
    (tblTryInsert cap t mac phy).2 = t := by
  obtain ⟨hsame, -⟩ | ⟨-, -, hroom⟩ := tblTryInsert_cases cap t mac phy
  · exact hsame
  · exact absurd h hroom

theorem learn_unchanged {src reply : Byte} {s : State}
    (h : src = reply ∨ (∃ sl ∈ s.dc, sl.mac = src) ∨ s.dc.length = s.cfg.dcCap) : learn src reply s = s := by
  by_cases hne : src = reply
  · rw [hne, learn_same]
  rw [learn_of_ne hne]
  obtain heq | hknown | hfull := h
  · exact absurd heq hne
  · rw [tblTryInsert_of_mem hknown]
  · rw [tblTryInsert_at_capacity hfull]

theorem learn_new {src reply : Byte} {s : State} (hne : src ≠ reply) (hnew : ∀ sl ∈ s.dc, sl.mac ≠ src)
    (hroom : s.dc.length < s.cfg.dcCap) : learn src reply s = { s with dc := s.dc ++ [⟨src, reply⟩] } := by
  rw [learn_of_ne hne, tblTryInsert_fresh (tblLookup_none.mpr hnew) hroom.ne]

theorem State.Ready.learn {s : State} (hs : s.Ready) (src reply : Byte) : (learn src reply s).Ready := by
  unfold Machine.learn
  split
  · exact hs
  · exact ⟨hs.accepts, hs.resetIn, hs.stalled⟩

/-! ### Frames (R125, R126) -/

theorem execRadRx_discarded {f : List Byte} {s : State} (h : f.length < 2 ∨ s.cfg.radMax + 2 < f.length) :
    execRadRx f s = .next s := by
  match f with
  | [] => rfl
  | [_] => rfl
  | src :: reply :: p =>
    have hlong : s.cfg.radMax + 2 < (src :: reply :: p).length := h.resolve_left (by simp)
    exact if_pos hlong

theorem execRadRx_ready {s : State} (hs : s.Ready) {p : List Byte} (h : p.length ≤ s.cfg.radMax) (src reply : Byte) :
    execRadRx (src :: reply :: p) s = .next ((learn src reply s).withOut [.deliver p s.cfg.ifRadio src]) := by
  have hfits : ¬ s.cfg.radMax + 2 < (src :: reply :: p).length := by simp only [List.length_cons]; omega
  rw [execRadRx, if_neg hfits, emit_ready (hs.learn src reply)]

/-- Settles O21: the frame's length decides between discard and delivery, and the learning step leaves DC or appends to it. -/
theorem radRxLearnsAndDelivers : Obligations.RadRxLearnsAndDelivers := by
  intro s hs
  refine ⟨fun f hf => execRadRx_discarded hf, fun src reply p hp => ⟨fun hold => ?_, fun hne hnew hroom => ?_⟩⟩
  · rw [exec, execRadRx_ready hs hp, learn_unchanged hold]
  · rw [exec, execRadRx_ready hs hp, learn_new hne hnew hroom]

end Sys2Proof.Machine
end

section
/-!
PROOF. The test for a free reply PHY (spec/41_radio_dispatcher.md R132).
-/
namespace Sys2Proof.Machine

theorem tblContains_eq_false_iff {t : Table} {v : Byte} {r : Role} :
    tblContains t v r = false ↔ ∀ sl ∈ t, roleField r sl ≠ v := by
  simp [← Bool.not_eq_true, tblContains_iff]

theorem tblContains_neither_iff {t : Table} {c : Byte} :
    (tblContains t c .MAC = false ∧ tblContains t c .PHY = false) ↔ ∀ sl ∈ t, sl.mac ≠ c ∧ sl.phy ≠ c := by
  simp only [tblContains_eq_false_iff, roleField, forall_and]

theorem freePhy_iff {c : Byte} {s : State} :
    freePhy c s = true ↔ c ≠ s.radSelf ∧ ∀ sl ∈ s.dc ++ s.rp, sl.mac ≠ c ∧ sl.phy ≠ c := by
  simp only [freePhy, Bool.and_eq_true, bne_iff_ne, Bool.not_eq_true', and_assoc, List.forall_mem_append,
    ← tblContains_neither_iff]

/-- Settles O19: `Free` searches both fields of both tables, and a draw lies in [1,255] by its type. -/
theorem freeCandidateIsInNoTable : Obligations.FreeCandidateIsInNoTable := ⟨fun _ _ => freePhy_iff, nextDraw_ne_zero⟩

end Sys2Proof.Machine
end

section
/-!
PROOF. Radio initialization and its command (spec/41_radio_dispatcher.md R121, R122).
-/
namespace Sys2Proof.Machine

/-- The state once `RadioInit` has drawn and written `RAD_SELF` and both tables, before its first output (R121). -/
def State.radioCleared (s : State) : State := { s.drawn with radSelf := s.nextDraw, dc := [], rp := [] }

theorem State.Ready.radioCleared {s : State} (hs : s.Ready) : s.radioCleared.Ready :=
  ⟨hs.drawn.accepts, hs.drawn.resetIn, hs.drawn.stalled⟩

theorem radioInit_ready {s : State} (hs : s.Ready) (k : State → Result) :
    radioInit s k = k (s.radioCleared.withOut
      [.openChannel 0 (physAddr s.cfg BCAST_PHY), .openChannel 1 (physAddr s.cfg s.nextDraw), .startListening]) := by
  rw [radioInit, draw_ready hs, ← State.drawn_cfg s]
  exact emitAll_ready hs.radioCleared _ k

theorem execRadReinit_ready {s : State} (hs : s.Ready) :
    execRadReinit s = .next (s.radioCleared.withOut
      [.openChannel 0 (physAddr s.cfg BCAST_PHY), .openChannel 1 (physAddr s.cfg s.nextDraw), .startListening,
        .response [0x00#8]]) := by
  rw [execRadReinit, radioInit_ready hs, respond_ready (hs.radioCleared.withOut _), State.withOut_withOut]
  rfl

/-- Settles O20: any operand byte is a wrong length for this opcode, and the command itself is `RadioInit` and a response. -/
theorem radReinitRedrawsAndEmptiesTables : Obligations.RadReinitRedrawsAndEmptiesTables := by
  intro s hs
  refine ⟨fun xs hxs => ?_, ?_⟩
  · have hlength : xs.length ≠ 0 := fun h => hxs (List.length_eq_zero_iff.mp h)
    exact handleEvent_wrongLength_ready hs (.inl ⟨by simp, hlength⟩)
  · rw [exec, execRadReinit_ready hs]
    simp [State.withOut, State.radioCleared]

end Sys2Proof.Machine
end

section
/-!
PROOF. The radio payload limit (spec/41_radio_dispatcher.md R128, spec/30_encoding.md R92).
-/
namespace Sys2Proof.Machine

theorem radSend_beyond_ready {s : State} (hs : s.Ready) {p : List Byte} (h : s.cfg.radMax < p.length) (d : Byte) :
    radSend d p s = .next (s.withOut [.response [0x01#8]]) := by
  rw [radSend, if_pos h, raiseStatus_ready hs, statusCode]

theorem State.Ready.with_rp {s : State} (hs : s.Ready) (t : Table) : ({ s with rp := t } : State).Ready :=
  ⟨hs.accepts, hs.resetIn, hs.stalled⟩

/-- Whatever the destination, the tables and the draws, step 3 of the send gives a reply PHY and the rest runs (R130, R131). -/
theorem radReply_ready {s : State} (hs : s.Ready) (d : Byte) (k : Byte → State → Result) :
    ∃ reply s', radReply d s k = k reply s' ∧ s'.Ready := by
  unfold radReply
  split
  · exact ⟨_, _, rfl, hs⟩
  split
  · exact ⟨_, _, rfl, hs⟩
  split
  · exact ⟨_, _, rfl, hs⟩
  obtain ⟨c, s', halloc, hs', -⟩ := allocPhy_ready hs s.cfg.allocTries _
  rw [halloc]
  cases c with
  | none => exact ⟨_, _, rfl, hs'⟩
  | some c => exact ⟨_, _, emit_ready (hs'.with_rp _) _ _, (hs'.with_rp _).withOut _⟩

theorem radSend_within_ready {s : State} (hs : s.Ready) {p : List Byte} (h : p.length ≤ s.cfg.radMax) (d : Byte) :
    ∃ t os, radSend d p s = .next t ∧ t.out = os ++ [.response [0x00#8]] := by
  obtain ⟨reply, s', hreply, hs'⟩ := radReply_ready hs d (radTransmit (radPipe d s).1 (radPipe d s).2 · p)
  rw [radSend_within h, hreply, radTransmit_ready hs']
  exact ⟨_, _, rfl, (List.append_assoc s'.out [_, _, _] [_]).symm⟩

/-- Settles O27: the limit is tested before anything else, and a send within it runs to its transmit sequence. -/
theorem radioPayloadLimitIsRadMax : Obligations.RadioPayloadLimitIsRadMax := fun _ d _ hs =>
  ⟨fun h => ⟨radSend_beyond_ready hs h d, radSend_beyond_ready hs h BCAST_MAC⟩,
    fun h => ⟨radSend_within_ready hs h d, radSend_within_ready hs h BCAST_MAC⟩⟩

end Sys2Proof.Machine
end

section
/-!
PROOF. The serial encoder's commands before collaborators that accept (spec/42_serial_framer.md R164 to R166).
-/
namespace Sys2Proof.Machine

theorem serSend_within_ready {s : State} (hs : s.Ready) {p : List Byte} (h : p.length ≤ s.cfg.serPlMax) (d : Byte) :
    serSend d p s = .next (s.withOut ((serWire s.serSelf d p).map .writeByte ++ [.response [0x00#8]])) := by
  rw [serSend, if_neg (Nat.not_lt.mpr h), emitAll_ready hs, respond_ready (hs.withOut _), State.withOut_withOut]

theorem serSend_beyond_ready {s : State} (hs : s.Ready) {p : List Byte} (h : s.cfg.serPlMax < p.length) (d : Byte) :
    serSend d p s = .next (s.withOut [.response [0x01#8]]) := by
  rw [serSend, if_pos h, raiseStatus_ready hs, statusCode]

theorem State.Ready.with_serSelf {s : State} (hs : s.Ready) (d : Byte) : ({ s with serSelf := d } : State).Ready :=
  ⟨hs.accepts, hs.resetIn, hs.stalled⟩

theorem execSerRedraw_ready {s : State} (hs : s.Ready) :
    execSerRedraw s = .next (State.withOut { s.drawn with serSelf := s.nextDraw } [.response [0x00#8]]) := by
  rw [execSerRedraw, draw_ready hs, respond_ready (hs.drawn.with_serSelf _)]

/-- Settles O28: the limit is tested before anything else, and within it the wire form of the record goes out byte by byte. -/
theorem serSendWritesTheStuffedFrame : Obligations.SerSendWritesTheStuffedFrame := by
  intro s hs
  refine ⟨fun d p r c hp hr hc => ?_, fun p => rfl, fun d p hp => ?_, fun xs hxs => ?_⟩
  · subst hc hr
    exact serSend_within_ready hs hp d
  · exact serSend_beyond_ready hs hp d
  · exact handleEvent_wrongLength_ready hs (.inr (.inr (.inr (.inr ⟨by simp, hxs⟩))))

/-- Settles O29: any operand byte is a wrong length for this opcode, and the command itself is one draw and a response. -/
theorem serRedrawReplacesSerSelf : Obligations.SerRedrawReplacesSerSelf := by
  intro s hs
  refine ⟨fun xs hxs => ?_, execSerRedraw_ready hs⟩
  have hlength : xs.length ≠ 0 := fun h => hxs (List.length_eq_zero_iff.mp h)
  exact handleEvent_wrongLength_ready hs (.inl ⟨by simp, hlength⟩)

end Sys2Proof.Machine
end

section
/-!
PROOF. The two control bytes of the stream (spec/42_serial_framer.md R154, R155) and the unescaping of the byte after an escape
(R156).
-/
namespace Sys2Proof.Machine

theorem logicalByte_escaped {s : State} (h : s.sdEsc = true) (b : Byte) : logicalByte b s = b ^^^ XMASK := if_pos h

/-- Settles O30: the meaning of the byte is this one update, with no test before it. -/
theorem preambleResynchronises : Obligations.PreambleResynchronises := fun _ => rfl

/-- Settles O31: the meaning of the byte is this one update, whatever the flag was, and 5E is 7E with the escape's bit flipped. -/
theorem escapeSetsTheFlag : Obligations.EscapeSetsTheFlag := by
  intro s
  refine ⟨rfl, rfl, ?_⟩
  rw [logicalByte_escaped rfl]
  decide

end Sys2Proof.Machine
end

section
/-!
PROOF. A raw data byte (spec/42_serial_framer.md R156 to R162): it hands its logical byte to the decoder, whose answer is said
once for each case of R163. With `SER_MAX` at least 5 every access these cases make is in range.
-/
namespace Sys2Proof.Machine

/-- A raw data byte clears the escape and hands over its logical byte (R156). -/
theorem exec_serRxData {s : State} {b x : Byte} (h : x = if s.sdEsc then b ^^^ 0x20#8 else b) :
    exec (.serRxData b) s = collectByte x { s with sdEsc := false } := by
  subst h
  rfl

/-! ### The filter (R158) -/

theorem frameTurnedAway_iff {s : State} :
    frameTurnedAway s = true ↔
      s.cfg.serMax - 5 < (bufGet s.sdBuf 0).toNat ∨ (bufGet s.sdBuf 2 ≠ s.serSelf ∧ bufGet s.sdBuf 2 ≠ 0x00#8) := by
  simp only [frameTurnedAway, filterDrops, Bool.or_eq_true, Bool.and_eq_true, decide_eq_true_eq, bne_iff_ne]
  rfl

theorem frameTurnedAway_eq_false {s : State} (hlen : (bufGet s.sdBuf 0).toNat ≤ s.cfg.serMax - 5)
    (hdst : bufGet s.sdBuf 2 = s.serSelf ∨ bufGet s.sdBuf 2 = 0x00#8) : frameTurnedAway s = false := by
  rw [← Bool.not_eq_true, frameTurnedAway_iff]
  rintro (hlong | ⟨hself, hbcast⟩)
  · exact absurd hlong (Nat.not_lt.mpr hlen)
  · exact hdst.elim hself hbcast

/-! ### The decoder by position -/

section
variable {s : State} (hcfg : s.cfg.Valid) (hst : s.sdState = .collecting)
include hcfg hst

theorem collectByte_header (hpos : s.sdPos.toNat ≤ 2) (x : Byte) :
    collectByte x s = .next (nextPos { s with sdBuf := bufSet s.sdBuf s.sdPos.toNat x }) := by
  have hin : s.sdPos.toNat < s.cfg.serMax := by have := hcfg.serMax_low; omega
  rw [collectByte_collecting hst, if_pos hpos, memWrite_inside hin]

/-- Past the header the two reads of the filter are in range, and what remains is the case split of R158 to R161. -/
theorem collectByte_body (hpos : 2 < s.sdPos.toNat) (x : Byte) :
    collectByte x s =
      if frameTurnedAway s then .next { s with sdState := .dropping }
      else if s.sdPos.toNat = (bufGet s.sdBuf 0).toNat + 3 then .next (nextPos { s with sdCrcHi := x })
      else if s.sdPos.toNat = (bufGet s.sdBuf 0).toNat + 4 then checkFrame (bufGet s.sdBuf 0).toNat x s
      else memWrite s.sdPos.toNat x s (fun s => .next (nextPos s)) := by
  have hlow := hcfg.serMax_low
  rw [collectByte_collecting hst, if_neg (Nat.not_le.mpr hpos), bodyByte, memRead_inside (by omega),
    memRead_inside (by omega), frameTurnedAway]

theorem collectByte_turnedAway (hpos : 2 < s.sdPos.toNat) (hf : frameTurnedAway s = true) (x : Byte) :
    collectByte x s = .next { s with sdState := .dropping } := by
  rw [collectByte_body hcfg hst hpos, if_pos hf]

theorem collectByte_crcHigh (hf : frameTurnedAway s = false) (hpos : s.sdPos.toNat = (bufGet s.sdBuf 0).toNat + 3)
    (x : Byte) : collectByte x s = .next (nextPos { s with sdCrcHi := x }) := by
  rw [collectByte_body hcfg hst (by omega), if_neg (by simp [hf]), if_pos hpos]

theorem collectByte_crcLow (hf : frameTurnedAway s = false) (hpos : s.sdPos.toNat = (bufGet s.sdBuf 0).toNat + 4)
    (x : Byte) : collectByte x s = checkFrame (bufGet s.sdBuf 0).toNat x s := by
  rw [collectByte_body hcfg hst (by omega), if_neg (by simp [hf]), if_neg (by omega), if_pos hpos]

theorem collectByte_payload (hpos : 2 < s.sdPos.toNat) (hf : frameTurnedAway s = false)
    (hhigh : s.sdPos.toNat ≠ (bufGet s.sdBuf 0).toNat + 3) (hlow : s.sdPos.toNat ≠ (bufGet s.sdBuf 0).toNat + 4)
    (hin : s.sdPos.toNat < s.cfg.serMax) (x : Byte) :
    collectByte x s = .next (nextPos { s with sdBuf := bufSet s.sdBuf s.sdPos.toNat x }) := by
  rw [collectByte_body hcfg hst hpos, if_neg (by simp [hf]), if_neg hhigh, if_neg hlow, memWrite_inside hin]

end

/-- Settles O32: the logical byte meets the decoder with the escape cleared, and each case of R163 has its lemma. -/
theorem dataByteIsUnescapedFilteredAndStored : Obligations.DataByteIsUnescapedFilteredAndStored := by
  intro s b x len dst hcfg hx hlen hdst
  subst hlen hdst
  rw [exec_serRxData hx]
  refine ⟨fun hst => ?_, fun hst hpos => ?_, fun hst hpos => ⟨fun hf => ?_, fun hlen hdst => ⟨fun hhigh => ?_,
    fun hhigh hlow hin => ?_⟩⟩⟩
  · exact collectByte_dropping (s := { s with sdEsc := false }) hst
  · exact collectByte_header (s := { s with sdEsc := false }) hcfg hst hpos x
  · exact collectByte_turnedAway (s := { s with sdEsc := false }) hcfg hst hpos (frameTurnedAway_iff.mpr hf) x
  · exact collectByte_crcHigh (s := { s with sdEsc := false }) hcfg hst (frameTurnedAway_eq_false hlen hdst) hhigh x
  · exact collectByte_payload (s := { s with sdEsc := false }) hcfg hst hpos (frameTurnedAway_eq_false hlen hdst) hhigh
      hlow hin x

end Sys2Proof.Machine
end

section
/-!
PROOF. The CRC low byte (spec/42_serial_framer.md R160): a frame that passed the filter lies within the buffer, so its check reads
the whole record and ends in its one output.
-/
namespace Sys2Proof.Machine

theorem bufSlice_eq_map_range (m : Buffer) (i n : Nat) : bufSlice m i n = (List.range n).map (fun j => bufGet m (i + j)) := by
  rw [bufSlice, List.range'_eq_map_range, List.map_map]
  rfl

theorem bufSlice_zero (m : Buffer) (n : Nat) : bufSlice m 0 n = (List.range n).map (bufGet m) := by
  rw [bufSlice, List.range_eq_range']

theorem frameOutput_of_crc_match {s : State} {x : Byte}
    (h : crc16 (bufSlice s.sdBuf 0 ((bufGet s.sdBuf 0).toNat + 3)) = (s.sdCrcHi ++ x : BitVec (8 + 8))) :
    frameOutput x s =
      .deliver (bufSlice s.sdBuf 3 (bufGet s.sdBuf 0).toNat) s.cfg.ifSerial (bufGet s.sdBuf 1) := if_pos h

theorem frameOutput_of_crc_mismatch {s : State} {x : Byte}
    (h : crc16 (bufSlice s.sdBuf 0 ((bufGet s.sdBuf 0).toNat + 3)) ≠ (s.sdCrcHi ++ x : BitVec (8 + 8))) :
    frameOutput x s = .serCrcFail := if_neg h

/-- The check of a frame within the buffer is its one output and then the end of the frame. -/
theorem checkFrame_inside {s : State} (h : (bufGet s.sdBuf 0).toNat + 3 ≤ s.cfg.serMax) (x : Byte) :
    checkFrame (bufGet s.sdBuf 0).toNat x s = emit (frameOutput x s) s (fun s => .next (endFrame s)) := by
  rw [checkFrame, memReadList_inside (by omega)]
  by_cases hcrc : crc16 (bufSlice s.sdBuf 0 ((bufGet s.sdBuf 0).toNat + 3)) = (s.sdCrcHi ++ x : BitVec (8 + 8))
  · rw [if_pos hcrc, memReadList_inside (by omega), memRead_inside (by omega), frameOutput_of_crc_match hcrc]
  · rw [if_neg hcrc, frameOutput_of_crc_mismatch hcrc]

theorem endFrame_withOut (s : State) (os : List Output) : endFrame (s.withOut os) = (endFrame s).withOut os := rfl

theorem collectByte_crcLow_ready {s : State} (hs : s.Ready) (hcfg : s.cfg.Valid) (hst : s.sdState = .collecting)
    (hlen : (bufGet s.sdBuf 0).toNat ≤ s.cfg.serMax - 5)
    (hdst : bufGet s.sdBuf 2 = s.serSelf ∨ bufGet s.sdBuf 2 = 0x00#8)
    (hpos : s.sdPos.toNat = (bufGet s.sdBuf 0).toNat + 4) (x : Byte) :
    collectByte x s = .next ((endFrame s).withOut [frameOutput x s]) := by
  have hin : (bufGet s.sdBuf 0).toNat + 3 ≤ s.cfg.serMax := by have := hcfg.serMax_low; omega
  rw [collectByte_crcLow hcfg hst (frameTurnedAway_eq_false hlen hdst) hpos, checkFrame_inside hin, emit_ready hs,
    endFrame_withOut]

theorem State.Ready.with_sdEsc {s : State} (hs : s.Ready) (e : Bool) : ({ s with sdEsc := e } : State).Ready :=
  ⟨hs.accepts, hs.resetIn, hs.stalled⟩

theorem frameOutput_with_sdEsc (x : Byte) (s : State) (e : Bool) :
    frameOutput x { s with sdEsc := e } = frameOutput x s := rfl

/-- Settles O33: the byte ends the frame with one output, and the comparison of the CRCs decides which. -/
theorem crcLowByteDeliversOrDiscards : Obligations.CrcLowByteDeliversOrDiscards := by
  intro s b x len dst hcfg hs hx hlen0 hdst2 hst hpos hlen hdst
  subst hlen0 hdst2
  rw [exec_serRxData hx, collectByte_crcLow_ready (hs.with_sdEsc false) hcfg hst hlen hdst hpos,
    frameOutput_with_sdEsc, ← bufSlice_zero]
  refine ⟨fun hcrc => ?_, fun hcrc => ?_⟩
  · rw [frameOutput_of_crc_match hcrc, bufSlice_eq_map_range]
    rfl
  · rw [frameOutput_of_crc_mismatch hcrc]
    rfl

end Sys2Proof.Machine
end

section
/-!
PROOF. A register read (spec/43_control.md R191, spec/10_state.md R31, R32): every register shows the number of the register map,
and the four response bytes of a word are its digits in base 256.
-/
namespace Sys2Proof.Machine

/-! ### Words as numbers -/

/-- The base-256 digits of a word (R53, R191). -/
theorem sum_wordBytes (v : Word) :
    (v.extractLsb' 24 8).toNat * 16777216 + (v.extractLsb' 16 8).toNat * 65536 + (v.extractLsb' 8 8).toNat * 256
      + (v.extractLsb' 0 8).toNat = v.toNat := by
  have hv := v.isLt
  simp only [BitVec.extractLsb'_toNat, Nat.shiftRight_eq_div_pow]
  omega

/-- Fields side by side in a register add up, the upper one scaled by the width of the lower. -/
theorem toNat_append_eq_add {m n : Nat} (x : BitVec m) (y : BitVec n) : (x ++ y).toNat = x.toNat * 2 ^ n + y.toNat := by
  rw [BitVec.toNat_append, ← Nat.shiftLeft_add_eq_or_of_lt y.isLt, Nat.shiftLeft_eq]

theorem field_toNat {w : Nat} (hw : w ≤ 32) (n : Nat) : (field w n).toNat = n % 2 ^ w := by
  rw [field, BitVec.toNat_setWidth_of_le hw, BitVec.toNat_ofNat]

theorem serStatus_toNat (s : State) : (serStatus s).toNat = regContent s 0x04 := by
  have hesc : (BitVec.ofBool s.sdEsc).toNat * 2 = if s.sdEsc then 2 else 0 := by cases s.sdEsc <;> rfl
  have hdrop : (dropBit s.sdState).toNat = if s.sdState = .dropping then 1 else 0 := by cases s.sdState <;> rfl
  simp only [serStatus, toNat_append_eq_add, regContent, ← hesc, ← hdrop, BitVec.toNat_ofNat]
  omega

/-! ### The register map (R31) -/

/-- Up to 0x0D the register is there and shows what the map says. -/
theorem exists_readReg (s : State) {r : Byte} (h : r.toNat ≤ 0x0D) :
    ∃ v, readReg r s = some v ∧ v.toNat = regContent s r.toNat := by
  unfold readReg
  generalize r.toNat = n at h
  match n, h with
  | 0x00, _ | 0x01, _ | 0x09, _ => exact ⟨_, rfl, BitVec.toNat_setWidth_of_le (by decide)⟩
  | 0x02, _ | 0x03, _ | 0x05, _ | 0x06, _ | 0x07, _ | 0x08, _ | 0x0B, _ | 0x0C, _ =>
    exact ⟨_, rfl, field_toNat (by decide) _⟩
  | 0x04, _ => exact ⟨_, rfl, serStatus_toNat s⟩
  | 0x0A, _ => exact ⟨_, rfl, rfl⟩
  | 0x0D, _ => exact ⟨_, rfl, (BitVec.toNat_setWidth_of_le (by decide)).trans (toNat_append_eq_add _ _)⟩

theorem readReg_reserved (s : State) {r : Byte} (h : 0x0D < r.toNat) : readReg r s = none := by
  unfold readReg
  split
  case h_15 => rfl
  all_goals omega

/-! ### The command before collaborators that accept -/

theorem exec_regRead_ready {s : State} (hs : s.Ready) {r : Byte} {v : Word} (h : readReg r s = some v) :
    exec (.regRead r) s = .next (s.withOut [.response (0x00#8 :: wordBytes v)]) := by
  simp only [exec, execRegRead, h, respond_ready hs]

theorem exec_regRead_reserved_ready {s : State} (hs : s.Ready) {r : Byte} (h : readReg r s = none) :
    exec (.regRead r) s = .next (s.withOut [.response [0x04#8]]) := by
  simp only [exec, execRegRead, h, raiseStatus_ready hs, statusCode]

/-- Settles O13: the response carries the bytes of the register's word, whose number the register map gives. -/
theorem regReadRespondsWithTheRegister : Obligations.RegReadRespondsWithTheRegister := by
  intro s r hs
  refine ⟨fun hr => ?_, fun hr => exec_regRead_reserved_ready hs (readReg_reserved s hr)⟩
  obtain ⟨v, hv, hcontent⟩ := exists_readReg s hr
  exact ⟨_, _, _, _, exec_regRead_ready hs hv, (sum_wordBytes v).trans hcontent⟩

end Sys2Proof.Machine
end

section
/-!
PROOF. One step outside reset and hang (spec/43_control.md R193, spec/60_exceptions.md R207): what taking an event writes, and
that the rest of the step is the handling of the event taken.
-/
namespace Sys2Proof.Machine

/-! ### What taking an event writes -/

/-- The arbiter's choice writes the arbiter's own fields only. -/
theorem choose_state {s s' : State} {p : Source} (h : s.choose = some (p, s')) :
    s' = { s with arb := s'.arb, arbCount := s'.arbCount } := by
  unfold State.choose at h
  split at h
  · cases h
  · cases h; rfl
  · split at h
    · split at h
      · cases h; rfl
      · cases h; rfl
    · cases h; rfl

/-- Taking the oldest event of a source writes the lists of pending events only. -/
theorem takeFrom_state {s s' : State} {p : Source} {e : Event} (h : s.takeFrom p = some (e, s')) :
    s' = { s with cmdIn := s'.cmdIn, serIn := s'.serIn, radIn := s'.radIn } := by
  unfold State.takeFrom at h
  split at h
  all_goals
    split at h
    · cases h; rfl
    · cases h

theorem takeEvent_state {s s' : State} {e : Event} (h : takeEvent s = some (e, s')) :
    s' = { s with
      cmdIn := s'.cmdIn, serIn := s'.serIn, radIn := s'.radIn, arb := s'.arb, arbCount := s'.arbCount } := by
  unfold takeEvent at h
  split at h
  · rename_i p s₁ hchoose
    rw [takeFrom_state h, choose_state hchoose]
  · cases h

theorem takeEvent_resets {s s' : State} {e : Event} (h : takeEvent s = some (e, s')) : s'.resets = s.resets := by
  rw [takeEvent_state h]

/-! ### The step -/

section
variable {s : State} (hr : s.resetTaken = false) (hs : s.stalled = none)
include hr hs

theorem step_of_takeEvent {s' : State} {e : Event} (h : takeEvent s = some (e, s')) : step s = handleEvent e s'.begun := by
  simp only [step, hr, hs, h, Bool.false_eq_true, if_false]

theorem step_of_no_event (h : takeEvent s = none) : step s = .next s := by
  simp only [step, hr, hs, h, Bool.false_eq_true, if_false]

end

/-! ### The handling of an event, by what it decodes to (R193) -/

theorem handleEvent_of_decode {e : Event} {i : Instr} (h : decode e = .ok i) (s : State) : handleEvent e s = exec i s := by
  simp only [handleEvent, h]

theorem handleEvent_reserved {e : Event} (h : decode e = .error .reservedOpcode) (s : State) :
    handleEvent e s = raiseStatus .EBADOP s := by
  simp only [handleEvent, h, answerMalformed]

theorem handleEvent_malformed {e : Event} (h : decode e = .error .malformedLength) (s : State) :
    handleEvent e s = raiseStatus .EFMT s := by
  simp only [handleEvent, h, answerMalformed]

/-- Settles O5: taking an event keeps the platform's entries, so the event's own entry is the next one of `s`. -/
theorem stepRunsTheDecodedInstruction : Obligations.StepRunsTheDecodedInstruction := by
  refine ⟨fun s s' b e hr hs htake hb => ?_, fun s => step_of_no_event⟩
  have hbegun : b = s'.begun := by rw [hb, State.begun, takeEvent_resets htake]
  have hstep : step s = handleEvent e b := by rw [hbegun, step_of_takeEvent hr hs htake]
  rw [hstep]
  exact ⟨rfl, fun i hi => handleEvent_of_decode hi b, fun he => handleEvent_reserved he b,
    fun he => handleEvent_malformed he b⟩

end Sys2Proof.Machine
end

section
/-!
PROOF. `NOP` (spec/43_control.md R190).
-/
namespace Sys2Proof.Machine

/-- Settles O12: the command is its response alone, and any operand byte is a wrong length for its opcode. -/
theorem nopResponds : Obligations.NopResponds := by
  refine fun s hs => ⟨respond_ready hs [], fun xs hxs => ?_⟩
  have hlength : xs.length ≠ 0 := mt List.length_eq_zero_iff.mp hxs
  exact handleEvent_wrongLength_ready hs (.inl ⟨by simp, hlength⟩)

end Sys2Proof.Machine
end

section
/-!
PROOF. The unicast send for every draw (spec/41_radio_dispatcher.md R129 to R131, spec/60_exceptions.md R204): step 2 is a function of
the DestinationCache, and step 3 ends in one of two ways, both of which go on to the transmit sequence.
-/
namespace Sys2Proof.Machine

/-- How step 3 of a unicast send to `d`, begun in `s`, may leave the RP table `rp`, with the reply PHY and the outputs made (R130). -/
def ReplyChosen (s : State) (d reply : Byte) (rp : Table) (opened : List Output) : Prop :=
  (rp = s.rp ∧ opened = [] ∧ (tblLookup s.rp d = some reply ∨ (tblLookup s.rp d = none ∧ reply = s.radSelf))) ∨
  (reply ≠ 0x00#8 ∧ freePhy reply s = true ∧ s.rp.length ≠ s.cfg.rpCap ∧ tblLookup s.rp d = none ∧
    rp = s.rp ++ [⟨d, reply⟩] ∧ opened = [.openChannel (2 + s.rp.length) (physAddr s.cfg reply)])

theorem ReplyChosen.shared {s : State} {d : Byte} (hnew : tblLookup s.rp d = none) :
    ReplyChosen s d s.radSelf s.rp [] :=
  .inl ⟨rfl, rfl, .inr ⟨hnew, rfl⟩⟩

section
variable {s : State} {d : Byte} (hd : d ≠ BCAST_MAC)
include hd

theorem radPipe_cached {q : Byte} (hq : tblLookup s.dc d = some q) : radPipe d s = (physAddr s.cfg q, true) := by
  rw [radPipe, if_neg hd, hq]

theorem radPipe_uncached (hq : tblLookup s.dc d = none) : radPipe d s = (physAddr s.cfg d, false) := by
  rw [radPipe, if_neg hd, hq]

theorem radReply_present {reply : Byte} (hreply : tblLookup s.rp d = some reply) (k : Byte → State → Result) :
    radReply d s k = k reply s := by
  rw [radReply, if_neg hd, hreply]

theorem radReply_full (hnew : tblLookup s.rp d = none) (hfull : s.rp.length = s.cfg.rpCap) (k : Byte → State → Result) :
    radReply d s k = k s.radSelf s := by
  rw [radReply, if_neg hd, hnew]
  exact if_pos hfull

/-- A new peer with room in RP: the allocation gives a free PHY, which is inserted and opened, or NONE (R130, R131). -/
theorem radReply_new_ready (hs : s.Ready) (hnew : tblLookup s.rp d = none) (hroom : s.rp.length ≠ s.cfg.rpCap)
    (k : Byte → State → Result) :
    ∃ reply s' opened, radReply d s k = k reply s' ∧ s'.Ready ∧ s'.radSelf = s.radSelf ∧ s'.out = s.out ++ opened ∧
      ReplyChosen s d reply s'.rp opened := by
  rw [radReply, if_neg hd, hnew]
  simp only [if_neg hroom]
  obtain ⟨c, s', halloc, hs', hcfg, hrp, -, hself, hout, hfree⟩ := allocPhy_ready hs s.cfg.allocTries _
  rw [halloc]
  cases c with
  | none =>
    rw [← List.append_nil s.out] at hout
    exact ⟨s'.radSelf, s', [], rfl, hs', hself, hout, by rw [hself, hrp]; exact .shared hnew⟩
  | some c =>
    obtain ⟨hne, hfree⟩ := hfree c rfl
    have hinsert : (tblTryInsert s'.cfg.rpCap s'.rp d c).2 = s.rp ++ [⟨d, c⟩] := by
      rw [hcfg, hrp, tblTryInsert_fresh hnew hroom]
    have hopened : s'.out ++ [.openChannel (2 + s'.rp.length) (physAddr s'.cfg c)] =
        s.out ++ [.openChannel (2 + s.rp.length) (physAddr s.cfg c)] := by rw [hcfg, hrp, hout]
    exact ⟨c, _, _, emit_ready (hs'.with_rp _) _ _, (hs'.with_rp _).withOut _, hself, hopened,
      .inr ⟨hne, hfree, hroom, hnew, hinsert, rfl⟩⟩

/-- Everything step 3 can do for a unicast destination, by the entry of the peer and the room in RP (R130). -/
theorem radReply_unicast_ready (hs : s.Ready) (k : Byte → State → Result) :
    ∃ reply s' opened, radReply d s k = k reply s' ∧ s'.Ready ∧ s'.radSelf = s.radSelf ∧ s'.out = s.out ++ opened ∧
      ReplyChosen s d reply s'.rp opened := by
  have hnothing : s.out = s.out ++ [] := (List.append_nil _).symm
  cases hlookup : tblLookup s.rp d with
  | some reply =>
    exact ⟨reply, s, [], radReply_present hd hlookup k, hs, rfl, hnothing, .inl ⟨rfl, rfl, .inl hlookup⟩⟩
  | none =>
    by_cases hfull : s.rp.length = s.cfg.rpCap
    · exact ⟨s.radSelf, s, [], radReply_full hd hlookup hfull k, hs, rfl, hnothing, .shared hlookup⟩
    · exact radReply_new_ready hd hs hlookup hfull k

end

/-- Settles O26: whatever step 3 chooses, the transmit sequence follows it on the pipe of step 2. -/
theorem radSendCompletesForEveryDraw : Obligations.RadSendCompletesForEveryDraw := by
  intro s d p pipe ack hs hd hp hpipe
  have hstep2 : radPipe d s = (pipe, ack) := by
    obtain ⟨q, hq, rfl, rfl⟩ | ⟨hq, rfl, rfl⟩ := hpipe
    · exact radPipe_cached hd hq
    · exact radPipe_uncached hd hq
  obtain ⟨reply, s', opened, hreply, hs', hself, hout, hchosen⟩ := radReply_unicast_ready hd hs (radTransmit pipe ack · p)
  have hsend : radSend d p s = .next (s'.withOut
      [.stopListening, .writeFrame pipe (s'.radSelf :: reply :: p) ack, .startListening, .response [0x00#8]]) := by
    rw [radSend_within hp, hstep2, hreply, radTransmit_ready hs']
  exact ⟨_, opened, reply, hsend, by rw [State.withOut_out, hout, hself], hchosen⟩

end Sys2Proof.Machine
end

section
/-!
PROOF. The reset sequence before collaborators that accept (spec/70_reset_and_hazards.md R232, R235): `RadioInit` and then the serial
part, run from the state in which a hang is over and no further reset is due.
-/
namespace Sys2Proof.Machine

/-- The state in which the reset sequence runs: the unit of work has begun, and a hang is over (R230, R241). -/
def State.resetBegun (s : State) : State := { s.begun with stalled := none }

@[simp] theorem State.resetBegun_cfg (s : State) : s.resetBegun.cfg = s.cfg := rfl
@[simp] theorem State.resetBegun_cmdIn (s : State) : s.resetBegun.cmdIn = s.cmdIn := rfl
@[simp] theorem State.resetBegun_serIn (s : State) : s.resetBegun.serIn = s.serIn := rfl
@[simp] theorem State.resetBegun_radIn (s : State) : s.resetBegun.radIn = s.radIn := rfl
@[simp] theorem State.resetBegun_draws (s : State) : s.resetBegun.draws = s.draws := rfl
@[simp] theorem State.resetBegun_resets (s : State) : s.resetBegun.resets = s.resets.tail := rfl
@[simp] theorem State.resetBegun_out (s : State) : s.resetBegun.out = s.out := rfl
@[simp] theorem State.resetBegun_nextDraw (s : State) : s.resetBegun.nextDraw = s.nextDraw := rfl

theorem State.resetBegun_ready {s : State} (ha : s.accepts = Accepts.unlimited) (hr : s.resets.head?.join = none) :
    s.resetBegun.Ready := ⟨ha, hr, rfl⟩

/-- The second draw is the one after the first, whatever the sequence has written between them. -/
theorem State.radioCleared_resetBegun_nextDraw (s : State) : s.resetBegun.radioCleared.nextDraw = s.drawn.nextDraw := by
  unfold State.radioCleared State.drawn
  cases h : s.draws with
  | nil => rw [State.resetBegun_draws, h]; rfl
  | cons d ds => rw [State.resetBegun_draws, h]; rfl

/-- The state once the serial part of the reset sequence has drawn and written `SER_SELF` and the decoder (R232 step 2). -/
def State.serialCleared (s : State) : State :=
  { s.drawn with
    serSelf := s.nextDraw, sdState := .dropping, sdEsc := false, sdPos := 0#16, sdCrcHi := 0x00#8, sdBuf := [] }

theorem State.Ready.serialCleared {s : State} (hs : s.Ready) : s.serialCleared.Ready :=
  ⟨hs.drawn.accepts, hs.drawn.resetIn, hs.drawn.stalled⟩

theorem serialInit_ready {s : State} (hs : s.Ready) : serialInit s = .next s.serialCleared := draw_ready hs _

/-- The state at the end of the reset sequence, with its three outputs in the history. -/
def State.resetDone (s : State) : State :=
  (s.resetBegun.radioCleared.withOut
    [.openChannel 0 (physAddr s.cfg BCAST_PHY), .openChannel 1 (physAddr s.cfg s.nextDraw), .startListening]).serialCleared

theorem State.Ready.resetDone {s : State} (hs : s.resetBegun.Ready) : s.resetDone.Ready :=
  (hs.radioCleared.withOut _).serialCleared

theorem resetSequence_ready {s : State} (hs : s.resetBegun.Ready) : resetSequence s = .next s.resetDone :=
  (radioInit_ready hs serialInit).trans (serialInit_ready (hs.radioCleared.withOut _))

theorem step_of_resetTaken {s : State} (h : s.resetTaken = true) : step s = resetSequence s := if_pos h

/-- Settles O10: the step is the reset sequence, which ends in one state whatever the state it began in. -/
theorem resetSequenceRunsFromAnyState : Obligations.ResetSequenceRunsFromAnyState := by
  intro s htaken haccepts hresets
  have hbegun := State.resetBegun_ready haccepts hresets
  obtain ⟨haccepts', hresetIn', hstalled'⟩ := State.Ready.resetDone hbegun
  refine ⟨s.resetDone, (step_of_resetTaken htaken).trans (resetSequence_ready hbegun), ?_,
    s.radioCleared_resetBegun_nextDraw, ?_, ?_, rfl, rfl, rfl, rfl, ?_, ?_, ?_, ?_, ?_, hresetIn', ?_, hstalled', haccepts'⟩
  all_goals simp [State.resetDone, State.serialCleared, State.radioCleared]

end Sys2Proof.Machine
end

section
/-!
PROOF. What is left of an event cut short (spec/20_memory.md R57, spec/70_reset_and_hazards.md R230, R241). A meaning run from a state is
compared with the same meaning before collaborators that accept everything: every operation that can cut the event short passes the
comparison on from the rest of the event to the whole.
-/
namespace Sys2Proof.Machine

/-- A reset has come between `s` and `t`, once exactly its count of outputs and draws was done (R230; log 8). -/
def ResetCame (s t : State) : Prop :=
  ∃ n, s.resetIn = some n ∧ t.resetIn = some 0 ∧
    t.out.length + t.drawCount + s.draws.length = s.out.length + s.drawCount + t.draws.length + n

/-- The machine waits for a port that does not accept (R241; log 7). -/
def State.Hangs (t : State) : Prop := ∃ p, t.stalled = some p ∧ t.blocked p = true

/-- The outcome `r` from `s` is what is left of the outcome `full`, that of the same event before collaborators that accept
everything, and `full` keeps the history of `s`. -/
structure CutOf (s : State) (r full : Result) : Prop where
  grows : ∀ u, full = .next u → s.out <+: u.out
  cut : ∀ t u, r = .next t → full = .next u →
    t.out <+: u.out ∧ (t.madeReady = u ∨ ResetCame s t ∨ t.Hangs)

/-- A meaning, or the rest of one, of which every state leaves a beginning. -/
def Cuttable (k : State → Result) : Prop := ∀ s, CutOf s (k s) (k s.madeReady)

/-! ### One more handshake -/

theorem resetCame_of_due {s : State} (h : s.resetDue = true) : ResetCame s s := by
  have h0 : s.resetIn = some 0 := eq_of_beq h
  exact ⟨0, h0, h0, rfl⟩

/-- Where no reset is due, a count left after one more handshake was greater by one before it. -/
theorem resetIn_before_handshake {s : State} {n : Nat} (hdue : s.resetDue = false)
    (h : s.resetIn.map (· - 1) = some n) : s.resetIn = some (n + 1) := by
  obtain ⟨m, hm, rfl⟩ := Option.map_eq_some_iff.mp h
  have h0 : m ≠ 0 := by
    rintro rfl
    simp [State.resetDue, hm] at hdue
  rw [hm, Nat.sub_add_cancel (Nat.pos_of_ne_zero h0)]

theorem ResetCame.of_emitted {s t : State} {o : Output} (hdue : s.resetDue = false) (h : ResetCame (s.emitted o) t) :
    ResetCame s t := by
  obtain ⟨n, hs, ht, hcount⟩ := h
  refine ⟨n + 1, resetIn_before_handshake hdue hs, ht, ?_⟩
  simp only [State.emitted_out, State.emitted_drawCount, State.emitted_draws, List.length_append, List.length_singleton] at hcount
  omega

/-- A draw is counted by the list of answers or by the counter of free values (log 2). -/
theorem drawn_count (s : State) : s.drawn.drawCount + s.draws.length = s.drawCount + s.drawn.draws.length + 1 := by
  unfold State.drawn
  split
  · rename_i hdraws
    rw [hdraws]
    rfl
  · rename_i hdraws
    rw [hdraws]
    exact Nat.add_right_comm s.drawCount 1 0

theorem ResetCame.of_drawn {s t : State} (hdue : s.resetDue = false) (h : ResetCame s.drawn t) : ResetCame s t := by
  obtain ⟨n, hs, ht, hcount⟩ := h
  rw [State.drawn_resetIn] at hs
  refine ⟨n + 1, resetIn_before_handshake hdue hs, ht, ?_⟩
  have := drawn_count s
  rw [State.drawn_out] at hcount
  omega

theorem hangs_waitFor {s : State} {p : Port} (h : s.blocked p = true) : (s.waitFor p).Hangs := ⟨p, rfl, h⟩

/-! ### Outputs and draws -/

theorem cuttable_next : Cuttable .next := fun s =>
  { grows := fun u hu => by cases hu; exact List.prefix_rfl
    cut := fun t u ht hu => by cases ht; cases hu; exact ⟨List.prefix_rfl, .inl rfl⟩ }

theorem CutOf.fault (s : State) (r : Fault) : CutOf s (.fault r) (.fault r) where
  grows u hu := by cases hu
  cut t u ht hu := by cases ht

/-- What is written between two handshakes is no part of the comparison. -/
theorem CutOf.of_write {s s' : State} {r full : Result} (h : CutOf s' r full) (hout : s'.out = s.out := by rfl)
    (hreset : s'.resetIn = s.resetIn := by rfl) (hdraws : s'.draws = s.draws := by rfl)
    (hcount : s'.drawCount = s.drawCount := by rfl) : CutOf s r full where
  grows u hu := hout ▸ h.grows u hu
  cut t u ht hu := by simpa only [ResetCame, hout, hreset, hdraws, hcount] using h.cut t u ht hu

/-- A test with the same answer before both collaborators. -/
theorem CutOf.ite {s : State} {c : Prop} [Decidable c] {r₁ r₂ full₁ full₂ : Result}
    (hpos : c → CutOf s r₁ full₁) (hneg : ¬c → CutOf s r₂ full₂) :
    CutOf s (if c then r₁ else r₂) (if c then full₁ else full₂) := by
  by_cases hc : c
  · simpa only [if_pos hc] using hpos hc
  · simpa only [if_neg hc] using hneg hc

/-- A handshake takes `s` to `s'`, and the rest of the event is run there; or a reset is due, or the port `p` never accepts. -/
theorem CutOf.handshake {s s' : State} {p : Port} {r rest full : Result}
    (hcases : ∀ t, r = .next t → (s.resetDue = true ∧ t = s) ∨ (s.resetDue = false ∧ s.blocked p = true ∧ t = s.waitFor p) ∨
      (s.resetDue = false ∧ s.blocked p = false ∧ rest = .next t))
    (hout : s.out <+: s'.out) (hreset : ∀ t, s.resetDue = false → ResetCame s' t → ResetCame s t)
    (h : CutOf s' rest full) : CutOf s r full := by
  have hgrows : ∀ u, full = .next u → s.out <+: u.out := fun u hu => hout.trans (h.grows u hu)
  refine ⟨hgrows, fun t u ht hu => ?_⟩
  obtain ⟨hdue, rfl⟩ | ⟨-, hblocked, rfl⟩ | ⟨hdue, -, hrest⟩ := hcases t ht
  · exact ⟨hgrows u hu, .inr (.inl (resetCame_of_due hdue))⟩
  · exact ⟨hgrows u hu, .inr (.inr (hangs_waitFor hblocked))⟩
  · obtain ⟨hprefix, hends⟩ := h.cut t u hrest hu
    exact ⟨hprefix, hends.imp_right (.imp_left (hreset t hdue))⟩

theorem cuttable_emit {k : State → Result} (hk : Cuttable k) (o : Output) : Cuttable (emit o · k) := by
  intro s
  have hfull : emit o s.madeReady k = k (s.emitted o).madeReady := emit_ready s.madeReady_ready o k
  simp only [hfull]
  exact .handshake (fun _ => emit_next) (List.prefix_append _ _) (fun _ => .of_emitted) (hk (s.emitted o))

theorem madeReady_nextDraw (s : State) : s.madeReady.nextDraw = s.nextDraw := rfl

theorem madeReady_drawn (s : State) : s.madeReady.drawn = s.drawn.madeReady := by
  unfold State.drawn
  cases h : s.draws with
  | nil => rw [State.madeReady_draws, h]; rfl
  | cons d ds => rw [State.madeReady_draws, h]; rfl

theorem cuttable_draw {k : Byte → State → Result} (hk : ∀ d, Cuttable (k d)) : Cuttable (draw · k) := by
  intro s
  have hfull : draw s.madeReady k = k s.nextDraw s.drawn.madeReady := by
    rw [draw_ready s.madeReady_ready, madeReady_nextDraw, madeReady_drawn]
  simp only [hfull]
  exact .handshake (fun _ => draw_next) (by rw [State.drawn_out]) (fun _ => .of_drawn) (hk s.nextDraw s.drawn)

theorem cuttable_emitAll {k : State → Result} (hk : Cuttable k) (os : List Output) : Cuttable (emitAll os · k) := by
  induction os with
  | nil => exact hk
  | cons o os ih => exact cuttable_emit ih o

theorem cuttable_respond (bs : List Byte) : Cuttable (respond bs) := cuttable_emit cuttable_next _

theorem cuttable_raiseStatus (st : Status) : Cuttable (raiseStatus st) := cuttable_emit cuttable_next _

/-! ### The control and table read commands -/

theorem cuttable_execRegRead (r : Byte) : Cuttable (execRegRead r) := by
  intro s
  have hfull : readReg r s.madeReady = readReg r s := rfl
  unfold execRegRead
  rw [hfull]
  cases readReg r s with
  | some v => exact cuttable_respond _ s
  | none => exact cuttable_raiseStatus _ s

theorem madeReady_table (s : State) (sel : TableSel) : s.madeReady.table sel = s.table sel := by
  cases sel with
  | DC => rfl
  | RP => rfl

theorem cuttable_execTblLookup (a m : Byte) : Cuttable (execTblLookup a m) := by
  intro s
  unfold execTblLookup
  cases tableOperand a with
  | none => exact cuttable_raiseStatus _ s
  | some sel =>
    simp only [madeReady_table]
    exact cuttable_respond _ s

theorem cuttable_execTblContains (a role v : Byte) : Cuttable (execTblContains a role v) := by
  intro s
  unfold execTblContains
  split
  · simp only [madeReady_table]
    exact cuttable_respond _ s
  · exact cuttable_raiseStatus _ s

theorem cuttable_execTblRead (a k : Byte) : Cuttable (execTblRead a k) := by
  intro s
  unfold execTblRead
  cases tableOperand a with
  | none => exact cuttable_raiseStatus _ s
  | some sel =>
    simp only [madeReady_table]
    exact .ite (fun _ => cuttable_raiseStatus _ s) (fun _ => cuttable_respond _ s)

/-! ### The radio pipe dispatcher -/

theorem cuttable_radioInit {k : State → Result} (hk : Cuttable k) : Cuttable (radioInit · k) :=
  cuttable_draw fun d s =>
    .of_write (cuttable_emitAll hk _ { s with radSelf := d, dc := tableReset, rp := tableReset })

theorem cuttable_execRadRx (f : List Byte) : Cuttable (execRadRx f) := by
  intro s
  unfold execRadRx
  split
  · rename_i src reply p
    refine .ite (fun _ => cuttable_next s) (fun _ => ?_)
    by_cases hsrc : src = reply
    · subst hsrc
      rw [learn_same, learn_same]
      exact cuttable_emit cuttable_next _ s
    · rw [learn_of_ne hsrc, learn_of_ne hsrc]
      exact .of_write (cuttable_emit cuttable_next _ { s with dc := (tblTryInsert s.cfg.dcCap s.dc src reply).2 })
  · exact cuttable_next s

theorem cuttable_allocPhy {k : Option Byte → State → Result} (hk : ∀ c, Cuttable (k c)) (n : Nat) :
    Cuttable (allocPhy n · k) := by
  induction n with
  | zero => exact hk none
  | succ n ih => exact cuttable_draw fun c s => .ite (fun _ => hk (some c) s) (fun _ => ih s)

theorem cuttable_radReply {k : Byte → State → Result} (hk : ∀ reply, Cuttable (k reply)) (d : Byte) :
    Cuttable (radReply d · k) := by
  refine fun s => .ite (fun _ => hk s.radSelf s) (fun _ => ?_)
  rw [State.madeReady_rp]
  cases tblLookup s.rp d with
  | some reply => exact hk reply s
  | none =>
    refine .ite (fun _ => hk s.radSelf s) (fun _ => cuttable_allocPhy (fun c s' => ?_) _ s)
    cases c with
    | none => exact hk s'.radSelf s'
    | some c => exact .of_write (cuttable_emit (hk c) _ { s' with rp := (tblTryInsert s'.cfg.rpCap s'.rp d c).2 })

theorem cuttable_radTransmit (pipe : PhysAddress) (ack : Bool) (reply : Byte) (p : List Byte) :
    Cuttable (radTransmit pipe ack reply p) := fun s => cuttable_emitAll (cuttable_respond []) _ s

theorem cuttable_radSend (d : Byte) (p : List Byte) : Cuttable (radSend d p) := fun s =>
  .ite (fun _ => cuttable_raiseStatus .ELEN s)
    (fun _ => cuttable_radReply (fun reply => cuttable_radTransmit (radPipe d s).1 (radPipe d s).2 reply p) d s)

/-! ### The serial framer -/

theorem CutOf.memRead {s : State} {k k' : Byte → Result} {i : Nat} (h : ∀ b, CutOf s (k b) (k' b)) :
    CutOf s (memRead i s k) (memRead i s.madeReady k') :=
  .ite (fun _ => h _) (fun _ => .fault s .sdBufRange)

theorem CutOf.memReadList {s : State} {n i : Nat} {k k' : List Byte → Result} (h : ∀ bs, CutOf s (k bs) (k' bs)) :
    CutOf s (memReadList i n s k) (memReadList i n s.madeReady k') := by
  induction n generalizing i k k' with
  | zero => exact h []
  | succ n ih => exact .memRead fun _ => ih fun _ => h _

theorem cuttable_memWrite {k : State → Result} (hk : Cuttable k) (i : Nat) (v : Byte) : Cuttable (memWrite i v · k) := fun s =>
  .ite (fun _ => .of_write (hk { s with sdBuf := bufSet s.sdBuf i v })) (fun _ => .fault s .sdBufRange)

theorem cuttable_nextPos : Cuttable (fun s => .next (nextPos s)) := fun s => .of_write (cuttable_next (nextPos s))

theorem cuttable_endFrame : Cuttable (fun s => .next (endFrame s)) := fun s => .of_write (cuttable_next (endFrame s))

theorem cuttable_checkFrame (len : Nat) (x : Byte) : Cuttable (checkFrame len x) := fun s =>
  .memReadList fun _ => .ite
    (fun _ => .memReadList fun _ => .memRead fun _ => cuttable_emit cuttable_endFrame _ s)
    (fun _ => cuttable_emit cuttable_endFrame _ s)

theorem cuttable_bodyByte (x : Byte) : Cuttable (bodyByte x) := fun s =>
  .memRead fun len => .memRead fun _ => .ite
    (fun _ => .of_write (cuttable_next { s with sdState := .dropping }))
    (fun _ => .ite (fun _ => .of_write (cuttable_nextPos { s with sdCrcHi := x }))
      (fun _ => .ite (fun _ => cuttable_checkFrame len.toNat x s)
        (fun _ => cuttable_memWrite cuttable_nextPos s.sdPos.toNat x s)))

theorem cuttable_collectByte (x : Byte) : Cuttable (collectByte x) := by
  intro s
  cases hst : s.sdState with
  | dropping =>
    rw [collectByte_dropping hst, collectByte_dropping (s := s.madeReady) hst]
    exact cuttable_next s
  | collecting =>
    rw [collectByte_collecting hst, collectByte_collecting (s := s.madeReady) hst]
    exact .ite (fun _ => cuttable_memWrite cuttable_nextPos s.sdPos.toNat x s) (fun _ => cuttable_bodyByte x s)

theorem cuttable_execSerRxData (b : Byte) : Cuttable (execSerRxData b) := fun s =>
  .of_write (cuttable_collectByte (logicalByte b s) { s with sdEsc := false })

theorem cuttable_serSend (d : Byte) (p : List Byte) : Cuttable (serSend d p) := fun s =>
  .ite (fun _ => cuttable_raiseStatus .ELEN s)
    (fun _ => cuttable_emitAll (cuttable_respond []) ((serWire s.serSelf d p).map .writeByte) s)

theorem cuttable_execSerRedraw : Cuttable execSerRedraw :=
  cuttable_draw fun d s => .of_write (cuttable_respond [] { s with serSelf := d })

/-! ### Instructions -/

theorem cuttable_exec (i : Instr) : Cuttable (exec i) := by
  cases i with
  | nop => exact cuttable_respond []
  | regRead r => exact cuttable_execRegRead r
  | tblLookup a m => exact cuttable_execTblLookup a m
  | tblContains a role v => exact cuttable_execTblContains a role v
  | tblRead a k => exact cuttable_execTblRead a k
  | radSend d p => exact cuttable_radSend d p
  | radReinit => exact cuttable_radioInit (cuttable_respond [])
  | serSend d p => exact cuttable_serSend d p
  | serRedraw => exact cuttable_execSerRedraw
  | serBcast p => exact cuttable_serSend BCAST_MAC p
  | radBcast p => exact cuttable_radSend BCAST_MAC p
  | serRxPreamble =>
    exact fun s => .of_write (cuttable_next { s with sdPos := 0#16, sdEsc := false, sdState := .collecting })
  | serRxEscape => exact fun s => .of_write (cuttable_next { s with sdEsc := true })
  | serRxData b => exact cuttable_execSerRxData b
  | radRx f => exact cuttable_execRadRx f

/-- Settles O50: every instruction leaves a beginning of its full run, and of the three ways it can end, the first is no missing
output and the second no run without a reset. -/
theorem cutShortEventsEmitAPrefix : Obligations.CutShortEventsEmitAPrefix := by
  intro i s t u ht hu
  obtain ⟨hprefix, hends⟩ := (cuttable_exec i s).cut t u ht hu
  refine ⟨hprefix, hends, fun hnoReset hmissing => ?_⟩
  obtain hfull | ⟨n, hreset, -⟩ | hhangs := hends
  · exact absurd (congrArg State.out hfull) hmissing
  · cases hnoReset.symm.trans hreset
  · exact hhangs

end Sys2Proof.Machine
end

section
/-!
PROOF. The CRC engine (spec/42_serial_framer.md R150, R151). One step of the bit loop loses nothing, since the bit it shifts out
decides the lowest bit of the result; so two records that differ in one byte never meet again.
-/
namespace Sys2Proof.Machine

/-- The top bit that is shifted out comes back as the lowest bit, where the polynomial has its constant term. -/
theorem crcBit_getLsbD_zero (c : Half) : (crcBit c).getLsbD 0 = c.msb := by
  unfold crcBit
  split
  · rename_i h
    simp [h, CRC_POLY]
  · rename_i h
    rw [BitVec.getLsbD_shiftLeft, Bool.eq_false_of_not_eq_true h]
    rfl

theorem msb_eq_of_crcBit_eq {c d : Half} (h : crcBit c = crcBit d) : c.msb = d.msb := by
  rw [← crcBit_getLsbD_zero, h, crcBit_getLsbD_zero]

theorem shiftLeft_one_eq_of_crcBit_eq {c d : Half} (h : crcBit c = crcBit d) : c <<< 1 = d <<< 1 := by
  have hmsb := msb_eq_of_crcBit_eq h
  unfold crcBit at h
  rw [hmsb] at h
  split at h
  · exact (BitVec.xor_left_inj _).mp h
  · exact h

theorem crcBit_injective : Function.Injective crcBit := by
  intro c d h
  have hmsb := msb_eq_of_crcBit_eq h
  have hshift := congrArg BitVec.toNat (shiftLeft_one_eq_of_crcBit_eq h)
  rw [BitVec.msb_eq_decide, BitVec.msb_eq_decide, decide_eq_decide] at hmsb
  have hc := c.isLt
  have hd := d.isLt
  simp only [BitVec.toNat_shiftLeft, Nat.shiftLeft_eq] at hshift
  refine BitVec.eq_of_toNat_eq ?_
  omega

theorem crcBits_injective (n : Nat) : Function.Injective (crcBits n) := by
  induction n with
  | zero => exact Function.injective_id
  | succ n ih => exact ih.comp crcBit_injective

theorem crcByte_left_injective (b : Byte) : Function.Injective (crcByte · b) := fun _ _ h =>
  (BitVec.xor_left_inj _).mp (crcBits_injective 8 h)

theorem crcByte_right_injective (c : Half) : Function.Injective (crcByte c) := by
  intro a b h
  have hshift := congrArg BitVec.toNat ((BitVec.xor_right_inj _).mp (crcBits_injective 8 h))
  have ha := a.isLt
  have hb := b.isLt
  simp only [BitVec.toNat_shiftLeft, Nat.shiftLeft_eq, BitVec.toNat_setWidth] at hshift
  refine BitVec.eq_of_toNat_eq ?_
  omega

/-- The rest of a record keeps two CRC registers apart. -/
theorem foldl_crcByte_injective (back : List Byte) : Function.Injective (fun c => back.foldl crcByte c) := by
  induction back with
  | nil => exact Function.injective_id
  | cons b back ih => exact ih.comp (crcByte_left_injective b)

theorem crc16_ne_of_byte_ne {a b : Byte} (h : a ≠ b) (front back : List Byte) :
    crc16 (front ++ a :: back) ≠ crc16 (front ++ b :: back) := by
  intro heq
  rw [crc16, crc16, List.foldl_append, List.foldl_append] at heq
  exact h (crcByte_right_injective _ (foldl_crcByte_injective back heq))

theorem xor_twoPow_ne (b : Byte) {n : Nat} (hn : n < 8) : b ^^^ BitVec.twoPow 8 n ≠ b := by
  intro h
  have hbit := congrArg (·.getLsbD n) h
  simp [hn] at hbit

/-- Settles O35: the CRC evaluates on the three records. -/
theorem crcCheckValues : Obligations.CrcCheckValues := by
  refine ⟨?_, ?_, ?_⟩
  · decide +kernel
  · decide +kernel
  · decide +kernel

/-- Settles O36: the flipped byte is another byte, and the CRC tells records apart that differ in one byte. -/
theorem crcDetectsEverySingleBitError : Obligations.CrcDetectsEverySingleBitError := fun front back b _ hn =>
  crc16_ne_of_byte_ne (xor_twoPow_ne b hn) front back

end Sys2Proof.Machine
end

section
/-!
PROOF. The stuffing of a record (spec/42_serial_framer.md R152, spec/30_encoding.md R78, R79).
-/
namespace Sys2Proof.Machine

theorem stuff_control {x : Byte} (h : x = PREAMBLE ∨ x = ESC) (xs : List Byte) :
    stuff (x :: xs) = ESC :: (x ^^^ XMASK) :: stuff xs := if_pos h

theorem stuff_data {x : Byte} (h : ¬ (x = PREAMBLE ∨ x = ESC)) (xs : List Byte) : stuff (x :: xs) = x :: stuff xs := if_neg h

/-- The byte after an escape is one of two, and no control byte itself. -/
theorem control_xor_mask {x : Byte} (h : x = PREAMBLE ∨ x = ESC) : x ^^^ XMASK = 0x5E#8 ∨ x ^^^ XMASK = 0x5D#8 := by
  obtain rfl | rfl := h
  · exact .inl (by decide)
  · exact .inr (by decide)

theorem preamble_not_mem_stuff (d : List Byte) : PREAMBLE ∉ stuff d := by
  induction d with
  | nil => exact List.not_mem_nil
  | cons x xs ih =>
    by_cases hx : x = PREAMBLE ∨ x = ESC
    · have hmask : PREAMBLE ≠ x ^^^ XMASK := by
        obtain h | h := control_xor_mask hx <;> (rw [h]; decide)
      rw [stuff_control hx]
      simp only [List.mem_cons, not_or]
      exact ⟨by decide, hmask, ih⟩
    · rw [stuff_data hx]
      simp only [List.mem_cons, not_or]
      exact ⟨fun h => hx (.inl h.symm), ih⟩

theorem stuff_escape_followed {d front back : List Byte} (h : stuff d = front ++ ESC :: back) :
    ∃ x rest, back = x :: rest ∧ (x = 0x5E#8 ∨ x = 0x5D#8) := by
  induction d generalizing front with
  | nil => simp [stuff] at h
  | cons x xs ih =>
    by_cases hx : x = PREAMBLE ∨ x = ESC
    · rw [stuff_control hx] at h
      match front with
      | [] =>
        obtain ⟨-, rfl⟩ := List.cons.inj h
        exact ⟨_, _, rfl, control_xor_mask hx⟩
      | [_] =>
        obtain ⟨hesc, -⟩ := List.cons.inj (List.cons.inj h).2
        obtain h | h := control_xor_mask hx <;> exact absurd (h.symm.trans hesc) (by decide)
      | _ :: _ :: front => exact ih (List.cons.inj (List.cons.inj h).2).2
    · rw [stuff_data hx] at h
      match front with
      | [] => exact absurd (.inr (List.cons.inj h).1) hx
      | _ :: front => exact ih (List.cons.inj h).2

theorem length_stuff (d : List Byte) :
    (stuff d).length = d.length + d.countP (fun b => b == PREAMBLE || b == ESC) := by
  induction d with
  | nil => rfl
  | cons x xs ih =>
    by_cases hx : x = PREAMBLE ∨ x = ESC
    · have hcount : (x == PREAMBLE || x == ESC) = true := by simpa using hx
      simp only [stuff_control hx, List.countP_cons, if_pos hcount, List.length_cons, ih]
      omega
    · have hcount : ¬ (x == PREAMBLE || x == ESC) = true := by simpa using hx
      simp only [stuff_data hx, List.countP_cons, if_neg hcount, List.length_cons, ih]
      omega

/-- Settles O37: each of the three by the bytes of the list, a control byte or not. -/
theorem stuffedBytesHoldNoPreamble : Obligations.StuffedBytesHoldNoPreamble := fun d =>
  ⟨preamble_not_mem_stuff d, fun _ _ => stuff_escape_followed, length_stuff d⟩

end Sys2Proof.Machine
end

section
/-!
PROOF. The state after power-on (spec/10_state.md section 6) and the range of the draws (spec/30_encoding.md R90).
-/
namespace Sys2Proof.Machine

theorem test_config_valid : Config.test.Valid := by
  constructor <;> decide

/-- Every nonzero byte is a draw (R90). -/
theorem exists_drawByte {b : Byte} (h : b ≠ 0x00#8) : ∃ d : Draw, drawByte d = b := by
  have hpos : b.toNat ≠ 0 := fun h0 => h (BitVec.eq_of_toNat_eq h0)
  have hlt := b.isLt
  refine ⟨⟨b.toNat - 1, by omega⟩, BitVec.eq_of_toNat_eq ?_⟩
  rw [drawByte_toNat]
  exact Nat.sub_add_cancel (Nat.pos_of_ne_zero hpos)

theorem nextDraw_cons (s : State) (d : Draw) (ds : List Draw) : ({ s with draws := d :: ds } : State).nextDraw = drawByte d := rfl

/-- Settles O11: a draw lies in [1,255] by its type, and the next one is the first the state gives. -/
theorem drawsRangeOverOneTo255 : Obligations.DrawsRangeOverOneTo255 := by
  refine ⟨nextDraw_ne_zero, fun s b hb => ?_⟩
  obtain ⟨d, hd⟩ := exists_drawByte hb
  exact ⟨d, (nextDraw_cons s d s.draws).trans hd⟩

/-- Settles O9: the self addresses are draws, and the other fields are written out in the state. -/
theorem resetStateIsAsTheSpecLists : Obligations.ResetStateIsAsTheSpecLists :=
  ⟨drawByte_ne_zero _, drawByte_ne_zero _, rfl, rfl, rfl, rfl, rfl, rfl, serStatus_reset ▸ readReg_serStatus _, rfl⟩

/-- Settles O52: the tables are empty and the decoder drops, so only the parameters and the self addresses say anything. -/
theorem resetMeetsTheInvariant : Obligations.ResetMeetsTheInvariant where
  cfg := test_config_valid
  radSelf := drawByte_ne_zero _
  serSelf := drawByte_ne_zero _
  dcCount := Nat.zero_le _
  rpCount := Nat.zero_le _
  dcMacs := List.nodup_nil
  rpMacs := List.nodup_nil
  rpMacNonzero := by rintro _ ⟨⟩
  rpPhy := by rintro _ ⟨⟩
  rpPhys := List.nodup_nil
  bufWf := reset_bufWf
  bufRange := by rintro _ ⟨⟩
  pos := Nat.zero_le _
  frame := nofun

end Sys2Proof.Machine
end

section
/-!
PROOF. Which event is taken (spec/60_exceptions.md R207): the arbiter chooses among the sources that have a pending event, every one of
them under some choice, and the oldest event of the chosen source is the one taken.
-/
namespace Sys2Proof.Machine

theorem mem_pending_command {s : State} : Source.command ∈ s.pending ↔ s.cmdIn ≠ [] := by
  simp [State.pending]

theorem mem_pending_stream {s : State} : Source.stream ∈ s.pending ↔ s.serIn ≠ [] := by
  simp [State.pending]

theorem mem_pending_radio {s : State} : Source.radio ∈ s.pending ↔ s.radIn ≠ [] := by
  simp [State.pending]

theorem freeChoice_mem (n : Nat) {ps : List Source} (h : ps ≠ []) (dflt : Source) : freeChoice n ps dflt ∈ ps := by
  have hlt : Config.freeArb n % ps.length < ps.length := Nat.mod_lt _ (List.length_pos_of_ne_nil h)
  rw [freeChoice, List.getD_eq_getElem _ _ hlt]
  exact List.getElem_mem hlt

/-- The source chosen has a pending event. -/
theorem choose_mem_pending {s s' : State} {p : Source} (h : s.choose = some (p, s')) : p ∈ s.pending := by
  unfold State.choose at h
  split at h
  · cases h
  · rename_i hpending
    cases h
    rw [hpending]
    exact List.mem_singleton_self p
  · rename_i hpending
    rw [hpending]
    split at h
    · split at h
      · rename_i hc
        cases h
        exact List.contains_iff_mem.mp hc
      · cases h
        exact freeChoice_mem _ (List.cons_ne_nil _ _) _
    · cases h
      exact freeChoice_mem _ (List.cons_ne_nil _ _) _

theorem choose_none {s : State} (h : s.choose = none) : s.pending = [] := by
  unfold State.choose at h
  split at h
  · assumption
  · cases h
  · split at h
    · split at h <;> cases h
    · cases h

/-- A choice the state gives as data is followed where its source has a pending event, alone or not. -/
theorem choose_of_arb {s : State} {c : Source} {cs : List Source} (harb : s.arb = c :: cs) (hc : c ∈ s.pending) :
    s.choose = some (c, { s with arb := cs }) := by
  unfold State.choose
  split
  · rename_i hpending
    rw [hpending] at hc
    cases hc
  · rename_i p hpending
    rw [hpending, List.mem_singleton] at hc
    rw [hc, harb, List.tail_cons]
  · rename_i hpending
    rw [hpending] at hc
    rw [harb]
    exact if_pos (List.contains_iff_mem.mpr hc)

theorem takeEvent_of_choose {s s' : State} {p : Source} (h : s.choose = some (p, s')) : takeEvent s = s'.takeFrom p := by
  rw [takeEvent, h]

section
variable {s : State}

theorem takeFrom_command {t : Transaction} {ts : List Transaction} (h : s.cmdIn = t :: ts) :
    s.takeFrom .command = some (.command t, { s with cmdIn := ts }) := by
  rw [State.takeFrom, h]

theorem takeFrom_stream {b : Byte} {bs : List Byte} (h : s.serIn = b :: bs) :
    s.takeFrom .stream = some (.serRx b, { s with serIn := bs }) := by
  rw [State.takeFrom, h]

theorem takeFrom_radio {f : List Byte} {fs : List (List Byte)} (h : s.radIn = f :: fs) :
    s.takeFrom .radio = some (.radRx f, { s with radIn := fs }) := by
  rw [State.takeFrom, h]

end

/-- Settles O6: the choice is followed, since its source has a pending event. -/
theorem anyPendingSourceMayBeTakenNext : Obligations.AnyPendingSourceMayBeTakenNext := by
  refine ⟨fun s t ts cs h harb => ?_, fun s b bs cs h harb => ?_, fun s f fs cs h harb => ?_⟩
  · have hpending : Source.command ∈ s.pending := mem_pending_command.mpr (by simp [h])
    rw [takeEvent_of_choose (choose_of_arb harb hpending)]
    exact takeFrom_command (s := { s with arb := cs }) h
  · have hpending : Source.stream ∈ s.pending := mem_pending_stream.mpr (by simp [h])
    rw [takeEvent_of_choose (choose_of_arb harb hpending)]
    exact takeFrom_stream (s := { s with arb := cs }) h
  · have hpending : Source.radio ∈ s.pending := mem_pending_radio.mpr (by simp [h])
    rw [takeEvent_of_choose (choose_of_arb harb hpending)]
    exact takeFrom_radio (s := { s with arb := cs }) h

/-- The event `e` is the oldest of its source in `s`, and `s'` is `s` without it, but for the arbiter's own fields. -/
def TakenOldest (s : State) (e : Event) (s' : State) : Prop :=
  (∃ t ts, e = .command t ∧ s.cmdIn = t :: ts ∧ s' = { s with cmdIn := ts, arb := s'.arb, arbCount := s'.arbCount }) ∨
  (∃ b bs, e = .serRx b ∧ s.serIn = b :: bs ∧ s' = { s with serIn := bs, arb := s'.arb, arbCount := s'.arbCount }) ∨
  (∃ f fs, e = .radRx f ∧ s.radIn = f :: fs ∧ s' = { s with radIn := fs, arb := s'.arb, arbCount := s'.arbCount })

/-- From the state the arbiter leaves, the chosen source gives its oldest event. -/
theorem exists_takeFrom {s s₁ : State} {p : Source} (hp : p ∈ s.pending)
    (hs₁ : s₁ = { s with arb := s₁.arb, arbCount := s₁.arbCount }) :
    ∃ e s', s₁.takeFrom p = some (e, s') ∧ TakenOldest s e s' := by
  rw [hs₁]
  cases p with
  | command =>
    obtain ⟨t, ts, h⟩ := List.exists_cons_of_ne_nil (mem_pending_command.mp hp)
    exact ⟨_, _, takeFrom_command h, .inl ⟨t, ts, rfl, h, rfl⟩⟩
  | stream =>
    obtain ⟨b, bs, h⟩ := List.exists_cons_of_ne_nil (mem_pending_stream.mp hp)
    exact ⟨_, _, takeFrom_stream h, .inr (.inl ⟨b, bs, rfl, h, rfl⟩)⟩
  | radio =>
    obtain ⟨f, fs, h⟩ := List.exists_cons_of_ne_nil (mem_pending_radio.mp hp)
    exact ⟨_, _, takeFrom_radio h, .inr (.inr ⟨f, fs, rfl, h, rfl⟩)⟩

/-- Everything taking an event can do. -/
theorem takeEvent_cases (s : State) :
    (s.pending = [] ∧ takeEvent s = none) ∨ ∃ e s', takeEvent s = some (e, s') ∧ TakenOldest s e s' := by
  cases hchoose : s.choose with
  | none => exact .inl ⟨choose_none hchoose, by rw [takeEvent, hchoose]⟩
  | some c =>
    obtain ⟨p, s₁⟩ := c
    rw [takeEvent_of_choose hchoose]
    exact .inr (exists_takeFrom (choose_mem_pending hchoose) (choose_state hchoose))

/-- Settles O7: no event is taken only where no source is pending, and the one taken is the oldest of its source. -/
theorem eventsAreTakenInArrivalOrder : Obligations.EventsAreTakenInArrivalOrder := by
  intro s
  obtain ⟨hpending, hnone⟩ | ⟨e, s', hsome, holdest⟩ := takeEvent_cases s
  · refine ⟨fun _ => ⟨?_, ?_, ?_⟩, fun e s' h => by simp [hnone] at h⟩
    · exact not_not.mp (mt mem_pending_command.mpr (by simp [hpending]))
    · exact not_not.mp (mt mem_pending_stream.mpr (by simp [hpending]))
    · exact not_not.mp (mt mem_pending_radio.mpr (by simp [hpending]))
  · refine ⟨fun h => by simp [hsome] at h, fun e₁ s₁ h => ?_⟩
    rw [hsome] at h
    cases h
    exact holdest

end Sys2Proof.Machine
end

section
/-!
PROOF. A hang (spec/70_reset_and_hazards.md R241).
-/
namespace Sys2Proof.Machine

theorem step_of_stalled {s : State} {p : Port} (hs : s.stalled = some p) (hr : s.resetIn = none) : step s = .next s := by
  simp [step, State.resetTaken, hr, hs]

theorem run_succ_of_step {s t : State} (h : step s = .next t) (n : Nat) :
    Host.Core.run core (n + 1) s = Host.Core.run core n t := by
  have hs : core.step s = .next t := h
  simp only [Host.Core.run, hs]

/-- Settles O49: by induction on the number of steps, each of which leaves the state as it is. -/
theorem hangStaysAHang : Obligations.HangStaysAHang := by
  intro s p n hs hr
  induction n with
  | zero => rfl
  | succ n ih => rw [run_succ_of_step (step_of_stalled hs hr), ih]

end Sys2Proof.Machine
end

section
/-!
PROOF. The unicast send with its draws given (spec/41_radio_dispatcher.md R129 to R132): the reply pipe of step 3 is found, refused
for want of room, or allocated from the draws, and in each case the transmit sequence follows in one known state.
-/
namespace Sys2Proof.Machine

/-- The pipe and the acknowledgement that R129 gives a unicast send. -/
def PipeOf (s : State) (d : Byte) (pipe : PhysAddress) (ack : Bool) : Prop :=
  (∃ q, tblLookup s.dc d = some q ∧ pipe = physAddr s.cfg q ∧ ack = true) ∨
  (tblLookup s.dc d = none ∧ pipe = physAddr s.cfg d ∧ ack = false)

theorem radPipe_unicast {s : State} {d : Byte} {pipe : PhysAddress} {ack : Bool} (hd : d ≠ BCAST_MAC)
    (h : PipeOf s d pipe ack) : radPipe d s = (pipe, ack) := by
  obtain ⟨q, hq, rfl, rfl⟩ | ⟨hq, rfl, rfl⟩ := h
  · exact radPipe_cached hd hq
  · exact radPipe_uncached hd hq

/-- The send runs on to its transmit sequence once step 3 has chosen the reply PHY and left the state `u`. -/
theorem radSend_unicast_ready {s u : State} {d reply : Byte} {p : List Byte} {pipe : PhysAddress} {ack : Bool}
    (hd : d ≠ BCAST_MAC) (hp : p.length ≤ s.cfg.radMax) (hpipe : PipeOf s d pipe ack)
    (hreply : ∀ k, radReply d s k = k reply u) (hu : u.Ready) :
    radSend d p s = .next (u.withOut
      [Output.stopListening, Output.writeFrame pipe (u.radSelf :: reply :: p) ack, Output.startListening,
        Output.response [0x00#8]]) := by
  rw [radSend_within hp, radPipe_unicast hd hpipe, hreply, radTransmit_ready hu]

/-- Settles O23: step 3 finds the reply pipe, or no room for one, and leaves the state as it is. -/
theorem radSendWithoutAllocation : Obligations.RadSendWithoutAllocation := by
  intro s d p pipe ack reply hs hd hp hpipe hreply
  refine radSend_unicast_ready hd hp hpipe (fun k => ?_) hs
  obtain hfound | ⟨hnew, hfull, rfl⟩ := hreply
  · exact radReply_present hd hfound k
  · exact radReply_full hd hnew hfull k

/-- What step 3 does with the outcome of the allocation (R130). -/
def replyAllocated (d : Byte) (k : Byte → State → Result) (c : Option Byte) (s : State) : Result :=
  match c with
  | none => k s.radSelf s
  | some c =>
    emit (Output.openChannel (2 + s.rp.length) (physAddr s.cfg c)) { s with rp := (tblTryInsert s.cfg.rpCap s.rp d c).2 } (k c)

section
variable {s : State} {d : Byte} (hnew : tblLookup s.rp d = none) (hroom : s.rp.length < s.cfg.rpCap)
include hnew hroom

theorem radReply_new (hd : d ≠ BCAST_MAC) (k : Byte → State → Result) :
    radReply d s k = allocPhy s.cfg.allocTries s (replyAllocated d k) := by
  rw [radReply, if_neg hd, hnew]
  exact if_neg hroom.ne

theorem replyAllocated_some_ready (hs : s.Ready) (c : Byte) (k : Byte → State → Result) :
    replyAllocated d k (some c) s =
      k c (State.withOut { s with rp := s.rp ++ [⟨d, c⟩] } [Output.openChannel (2 + s.rp.length) (physAddr s.cfg c)]) := by
  rw [replyAllocated, tblTryInsert_fresh hnew hroom.ne, emit_ready (hs.with_rp _)]

end

theorem State.Ready.with_draws {s : State} (hs : s.Ready) (ds : List Draw) : ({ s with draws := ds } : State).Ready :=
  ⟨hs.accepts, hs.resetIn, hs.stalled⟩

theorem State.Ready.drawn_cons {s : State} (hs : s.Ready) (c : Draw) (rest : List Draw) :
    ({ s with draws := c :: rest } : State).drawn = { s with draws := rest } := by
  simp [State.drawn, hs.accepts, hs.resetIn]

/-- The first free draw ends the allocation (R131). -/
theorem allocPhy_first_free {s : State} (hs : s.Ready) {rejected rest : List Draw} {c : Draw}
    (hdraws : s.draws = rejected ++ c :: rest) (hrejected : ∀ x ∈ rejected, freePhy (drawByte x) s = false)
    (hfree : freePhy (drawByte c) s = true) {n : Nat} (hn : rejected.length < n) (k : Option Byte → State → Result) :
    allocPhy n s k = k (some (drawByte c)) { s with draws := rest } := by
  obtain ⟨m, rfl⟩ := Nat.exists_eq_add_of_lt hn
  have hfree' : freePhy (drawByte c) { s with draws := rest } = true := hfree
  rw [Nat.add_assoc, allocPhy_rejected hs rejected (c :: rest) hdraws hrejected, allocPhy, draw_ready (hs.with_draws _),
    hs.drawn_cons, nextDraw_cons, if_pos hfree']

/-- Settles O24: the rejected draws leave only the draws shorter, and the free one is inserted and opened. -/
theorem radSendAllocatesTheFirstFreeDraw : Obligations.RadSendAllocatesTheFirstFreeDraw := by
  intro s d p pipe ack rejected rest c hs hd hp hpipe hnew hroom hdraws htries hrejected hfree
  have hs' := hs.with_draws rest
  have hreply : ∀ k, radReply d s k = k (drawByte c) (State.withOut { s with draws := rest, rp := s.rp ++ [⟨d, drawByte c⟩] }
      [Output.openChannel (2 + s.rp.length) (physAddr s.cfg (drawByte c))]) := fun k => by
    rw [radReply_new hnew hroom hd, allocPhy_first_free hs hdraws hrejected hfree htries]
    exact replyAllocated_some_ready (s := { s with draws := rest }) hnew hroom hs' _ k
  rw [exec, execRadSend, radSend_unicast_ready hd hp hpipe hreply ((hs'.with_rp _).withOut _), State.withOut_withOut]
  rfl

/-- Settles O25: the draws are used up with none free, and the shared channel is all that is left. -/
theorem radSendFallsBackWhenNoDrawIsFree : Obligations.RadSendFallsBackWhenNoDrawIsFree := by
  intro s d p pipe ack rejected rest hs hd hp hpipe hnew hroom hdraws htries hrejected
  have hreply : ∀ k, radReply d s k = k s.radSelf { s with draws := rest } := fun k => by
    rw [radReply_new hnew hroom hd, ← htries]
    exact allocPhy_rejected hs rejected rest hdraws hrejected 0 _
  exact radSend_unicast_ready hd hp hpipe hreply (hs.with_draws rest)

end Sys2Proof.Machine
end

section
/-!
PROOF. Frames: what an instruction leaves unchanged in every state, hangs and resets included (spec/40_address_tables.md,
spec/41_radio_dispatcher.md, spec/42_serial_framer.md, spec/43_control.md). Outputs, waits and draws touch no register, so a frame
is kept by everything but the writes an instruction makes itself.
-/
namespace Sys2Proof.Machine

/-! ### Outputs, waits and draws touch no register -/

theorem SameEngine.refl (s : State) : SameEngine s s := ⟨rfl, rfl, rfl, rfl, rfl, rfl, rfl, rfl, fun _ => rfl⟩

theorem steady_sameEngine (s : State) : Steady (SameEngine s) := ⟨fun _ _ _ _ h => { h with }, fun _ _ h => { h with }⟩

theorem SameDecoder.refl (s : State) : SameDecoder s s := ⟨rfl, rfl, rfl, rfl, fun _ => rfl⟩

theorem steady_sameDecoder (s : State) : Steady (SameDecoder s) := ⟨fun _ _ _ _ h => { h with }, fun _ _ h => { h with }⟩

theorem SameDecoder.drawn {s t : State} (h : SameDecoder s t) : SameDecoder s t.drawn where
  sdState := by rw [State.drawn_sdState, h.sdState]
  sdEsc := by rw [State.drawn_sdEsc, h.sdEsc]
  sdPos := by rw [State.drawn_sdPos, h.sdPos]
  sdCrcHi := by rw [State.drawn_sdCrcHi, h.sdCrcHi]
  sdBuf := by rw [State.drawn_sdBuf]; exact h.sdBuf

theorem SameAddresses.refl (s : State) : SameAddresses s s := ⟨rfl, rfl, rfl, rfl⟩

theorem steady_sameAddresses (s : State) : Steady (SameAddresses s) := ⟨fun _ _ _ _ h => { h with }, fun _ _ h => { h with }⟩

theorem Steady.and {P Q : State → Prop} (hP : Steady P) (hQ : Steady Q) : Steady (fun s => P s ∧ Q s) :=
  ⟨fun s o hr hb h => ⟨hP.emitted s o hr hb h.1, hQ.emitted s o hr hb h.2⟩,
    fun s p h => ⟨hP.waitFor s p h.1, hQ.waitFor s p h.2⟩⟩

/-! ### The read commands and the serial sends (R106 to R108, R164, R190, R191) -/

/-- The commands whose rules write no state. -/
def ReadsOnly (i : Instr) : Prop :=
  i = .nop ∨ (∃ r, i = .regRead r) ∨ (∃ a b, i = .tblLookup a b) ∨ (∃ a b c, i = .tblContains a b c) ∨
    (∃ a b, i = .tblRead a b) ∨ (∃ d p, i = .serSend d p) ∨ (∃ p, i = .serBcast p)

/-- Every instruction reads only, or is one of the eight that write state. -/
theorem instr_classes (i : Instr) :
    ReadsOnly i ∨ (∃ d p, i = .radSend d p) ∨ (∃ p, i = .radBcast p) ∨ i = .radReinit ∨ i = .serRedraw ∨
      i = .serRxPreamble ∨ i = .serRxEscape ∨ (∃ b, i = .serRxData b) ∨ ∃ f, i = .radRx f := by
  cases i <;> simp [ReadsOnly]

theorem exec_keeps_of_readsOnly {P : State → Prop} (hP : Steady P) {i : Instr} {s t : State} (hi : ReadsOnly i) (hs : P s)
    (h : exec i s = .next t) : P t := by
  obtain rfl | ⟨r, rfl⟩ | ⟨a, b, rfl⟩ | ⟨a, b, c, rfl⟩ | ⟨a, b, rfl⟩ | ⟨d, p, rfl⟩ | ⟨p, rfl⟩ := hi
  · exact respond_keeps hP hs h
  · exact execRegRead_keeps hP hs h
  · exact execTblLookup_keeps hP hs h
  · exact execTblContains_keeps hP hs h
  · exact execTblRead_keeps hP hs h
  · exact serSend_keeps hP hs h
  · exact serSend_keeps hP hs h

theorem steady_sameDraws (s : State) : Steady (fun t => t.draws = s.draws ∧ t.drawCount = s.drawCount) :=
  ⟨fun _ _ _ _ h => h, fun _ _ h => h⟩

/-- Settles O40: the rules of these commands emit and do nothing else. -/
theorem readCommandsAndSerialSendsWriteNoState : Obligations.ReadCommandsAndSerialSendsWriteNoState := fun _ s _ hi h =>
  exec_keeps_of_readsOnly ((steady_sameEngine s).and (steady_sameDraws s)) hi ⟨.refl s, rfl, rfl⟩ h

/-! ### The radio commands (R121, R127) -/

/-- The serial engine of `t` is that of `s`. -/
def SameSerial (s t : State) : Prop := SameDecoder s t ∧ t.serSelf = s.serSelf

/-- `RAD_SELF` and DC of `t` are those of `s`. -/
def SameRadSelfAndDc (s t : State) : Prop := t.radSelf = s.radSelf ∧ t.dc = s.dc

theorem SameSerial.refl (s : State) : SameSerial s s := ⟨.refl s, rfl⟩

theorem steady_sameSerial (s : State) : Steady (SameSerial s) :=
  (steady_sameDecoder s).and ⟨fun _ _ _ _ h => h, fun _ _ h => h⟩

theorem SameSerial.drawn {s t : State} (h : SameSerial s t) : SameSerial s t.drawn :=
  ⟨h.1.drawn, by rw [State.drawn_serSelf, h.2]⟩

theorem steady_sameRadSelfAndDc (s : State) : Steady (SameRadSelfAndDc s) := ⟨fun _ _ _ _ h => h, fun _ _ h => h⟩

theorem SameRadSelfAndDc.drawn {s t : State} (h : SameRadSelfAndDc s t) : SameRadSelfAndDc s t.drawn :=
  ⟨by rw [State.drawn_radSelf, h.1], by rw [State.drawn_dc, h.2]⟩

theorem radSend_frame {d : Byte} {p : List Byte} {s t : State} (h : radSend d p s = .next t) :
    SameSerial s t ∧ SameRadSelfAndDc s t :=
  radSend_keeps ((steady_sameSerial s).and (steady_sameRadSelfAndDc s)) (fun _ _ h => ⟨h.1.drawn, h.2.drawn⟩)
    (fun _ _ _ h _ _ _ => ⟨⟨{ h.1.1 with }, h.1.2⟩, h.2⟩) ⟨.refl s, rfl, rfl⟩ h

theorem execRadReinit_frame {s t : State} (h : execRadReinit s = .next t) : SameSerial s t :=
  radioInit_keeps (steady_sameSerial s) (fun _ h => h.drawn) (fun _ _ h => ⟨{ h.1 with }, h.2⟩)
    (fun _ => respond_keeps (steady_sameSerial s)) (.refl s) h

/-- Settles O41: a send writes RP alone, and `RadioInit` writes `RAD_SELF` and the tables. -/
theorem radioCommandsLeaveTheSerialEngineAlone : Obligations.RadioCommandsLeaveTheSerialEngineAlone := by
  rintro i s t (⟨d, p, rfl⟩ | ⟨p, rfl⟩ | rfl) h
  · obtain ⟨⟨hdec, hself⟩, hrad⟩ := radSend_frame h
    exact ⟨hdec, hself, fun _ => hrad⟩
  · obtain ⟨⟨hdec, hself⟩, hrad⟩ := radSend_frame h
    exact ⟨hdec, hself, fun _ => hrad⟩
  · obtain ⟨hdec, hself⟩ := execRadReinit_frame h
    exact ⟨hdec, hself, fun hne => absurd rfl hne⟩

/-! ### Inbound radio frames and `SER_REDRAW` (R123, R166) -/

theorem execRadRx_keeps {P : State → Prop} (hP : Steady P) {f : List Byte} {s t : State} (hs : P s)
    (hlearn : ∀ src reply, P (learn src reply s)) (h : execRadRx f s = .next t) : P t := by
  unfold execRadRx at h
  split at h
  · split at h
    · cases h; exact hs
    · exact emit_keeps hP (fun _ hs' h' => by cases h'; exact hs') (hlearn _ _) h
  · cases h; exact hs

theorem execSerRedraw_keeps {P : State → Prop} (hP : Steady P) {s t : State} (hd : s.resetDue = false → P s → P s.drawn)
    (hwrite : ∀ d, d ≠ 0x00#8 → P s.drawn → P { s.drawn with serSelf := d }) (hs : P s) (h : execSerRedraw s = .next t) :
    P t :=
  draw_keeps hP hd (fun hs' h' => respond_keeps hP (hwrite _ (nextDraw_ne_zero s) hs') h') hs h

/-- Everything the learning step can do (R124). -/
theorem learn_cases (src reply : Byte) (s : State) :
    learn src reply s = s ∨
    (tblLookup s.dc src = none ∧ s.dc.length ≠ s.cfg.dcCap ∧
      learn src reply s = { s with dc := s.dc ++ [⟨src, reply⟩] }) := by
  by_cases hne : src = reply
  · subst hne
    exact .inl (learn_same src s)
  · rw [learn_of_ne hne]
    obtain ⟨h, -⟩ | ⟨h, hnew, hroom⟩ := tblTryInsert_cases s.cfg.dcCap s.dc src reply
    · rw [h]; exact .inl rfl
    · rw [h]; exact .inr ⟨hnew, hroom, rfl⟩

/-- DC of `t` is that of `s`, with one more slot at the end at most. -/
def DcGrewByOne (s t : State) : Prop := t.dc = s.dc ∨ ∃ sl, t.dc = s.dc ++ [sl]

/-- Only DC of `t` may differ from `s`, by one more slot at its end at most. -/
def OnlyDcGrew (s t : State) : Prop :=
  SameDecoder s t ∧ t.radSelf = s.radSelf ∧ t.serSelf = s.serSelf ∧ t.rp = s.rp ∧ DcGrewByOne s t

theorem steady_onlyDcGrew (s : State) : Steady (OnlyDcGrew s) :=
  (steady_sameDecoder s).and ⟨fun _ _ _ _ h => h, fun _ _ h => h⟩

theorem OnlyDcGrew.refl (s : State) : OnlyDcGrew s s := ⟨.refl s, rfl, rfl, rfl, .inl rfl⟩

theorem OnlyDcGrew.learn (src reply : Byte) (s : State) : OnlyDcGrew s (learn src reply s) := by
  obtain h | ⟨-, -, h⟩ := learn_cases src reply s
  · rw [h]; exact .refl s
  · rw [h]; exact ⟨{ SameDecoder.refl s with }, rfl, rfl, rfl, .inr ⟨_, rfl⟩⟩

theorem execRadRx_frame {f : List Byte} {s t : State} (h : execRadRx f s = .next t) : OnlyDcGrew s t :=
  execRadRx_keeps (steady_onlyDcGrew s) (.refl s) (fun src reply => .learn src reply s) h

/-- Everything but `SER_SELF` of `t` is that of `s`. -/
def SameButSerSelf (s t : State) : Prop := SameDecoder s t ∧ t.radSelf = s.radSelf ∧ t.dc = s.dc ∧ t.rp = s.rp

theorem steady_sameButSerSelf (s : State) : Steady (SameButSerSelf s) :=
  (steady_sameDecoder s).and ⟨fun _ _ _ _ h => h, fun _ _ h => h⟩

theorem SameButSerSelf.refl (s : State) : SameButSerSelf s s := ⟨.refl s, rfl, rfl, rfl⟩

theorem SameButSerSelf.drawn {s t : State} (h : SameButSerSelf s t) : SameButSerSelf s t.drawn := by
  obtain ⟨hdec, hrad, hdc, hrp⟩ := h
  exact ⟨hdec.drawn, by rw [State.drawn_radSelf, hrad], by rw [State.drawn_dc, hdc], by rw [State.drawn_rp, hrp]⟩

theorem execSerRedraw_frame {s t : State} (h : execSerRedraw s = .next t) : SameButSerSelf s t :=
  execSerRedraw_keeps (steady_sameButSerSelf s) (fun _ h => h.drawn) (fun _ _ h => ⟨{ h.1 with }, h.2⟩) (.refl s) h

/-- Settles O42: the one write of each rule. -/
theorem radRxAndSerRedrawFrame : Obligations.RadRxAndSerRedrawFrame :=
  ⟨fun _ _ _ => execRadRx_frame, fun _ _ => execSerRedraw_frame⟩

/-! ### Raw bytes of the stream (R154 to R162) -/

theorem storesByte_iff {s : State} :
    storesByte s = true ↔ s.sdState = .collecting ∧
      (s.sdPos.toNat ≤ 2 ∨ (frameTurnedAway s = false ∧ s.sdPos.toNat ≠ (bufGet s.sdBuf 0).toNat + 3 ∧
        s.sdPos.toNat ≠ (bufGet s.sdBuf 0).toNat + 4)) := by
  simp only [storesByte, frameTurnedAway, Bool.and_eq_true, Bool.or_eq_true, decide_eq_true_eq, Bool.not_eq_true', and_assoc]

/-- What a logical byte at `s` leaves unchanged in `t` (R157 to R162). -/
structure DataFrame (s t : State) : Prop where
  addresses : SameAddresses s t
  otherBytes : ∀ a, a ≠ s.sdPos.toNat → bufGet t.sdBuf a = bufGet s.sdBuf a
  notStored : storesByte s = false → ∀ a, bufGet t.sdBuf a = bufGet s.sdBuf a
  stored : storesByte s = true → t.sdCrcHi = s.sdCrcHi ∧ t.sdState = s.sdState

theorem DataFrame.of_not_stored {s t : State} (haddr : SameAddresses s t) (hbuf : t.sdBuf = s.sdBuf)
    (h : storesByte s = false) : DataFrame s t where
  addresses := haddr
  otherBytes a _ := by rw [hbuf]
  notStored _ a := by rw [hbuf]
  stored h' := by rw [h] at h'; cases h'

theorem DataFrame.of_stored {s : State} (h : storesByte s = true) (x : Byte) :
    DataFrame s (nextPos { s with sdBuf := bufSet s.sdBuf s.sdPos.toNat x }) where
  addresses := ⟨rfl, rfl, rfl, rfl⟩
  otherBytes _ ha := bufGet_bufSet_other ha
  notStored h' := by rw [h] at h'; cases h'
  stored _ := ⟨rfl, rfl⟩

theorem storesByte_dropping {s : State} (h : s.sdState = .dropping) : storesByte s = false := by
  rw [← Bool.not_eq_true, storesByte_iff, h]
  exact fun ⟨hst, _⟩ => nomatch hst

/-- Past the header nothing is stored of a frame turned away, and no CRC byte (R158 to R160). -/
theorem storesByte_eq_false {s : State} (hpos : 2 < s.sdPos.toNat)
    (h : frameTurnedAway s = false →
      s.sdPos.toNat = (bufGet s.sdBuf 0).toNat + 3 ∨ s.sdPos.toNat = (bufGet s.sdBuf 0).toNat + 4) :
    storesByte s = false := by
  rw [← Bool.not_eq_true, storesByte_iff]
  rintro ⟨-, hhead | ⟨hf, hhigh, hlow⟩⟩
  · exact absurd hhead (Nat.not_le.mpr hpos)
  · exact (h hf).elim hhigh hlow

theorem collectByte_frame {x : Byte} {s t : State} (h : collectByte x s = .next t) : DataFrame s t := by
  obtain ⟨hst, rfl⟩ | ⟨hst, -, hstore, rfl⟩ | ⟨-, hpos, hf, rfl⟩ | ⟨-, hpos, -, hhigh, rfl⟩ | ⟨-, hpos, -, hlow, hemit⟩ :=
    collectByte_next h
  · exact .of_not_stored (.refl t) rfl (storesByte_dropping hst)
  · exact .of_stored (storesByte_iff.mpr ⟨hst, hstore⟩) x
  · exact .of_not_stored ⟨rfl, rfl, rfl, rfl⟩ rfl (storesByte_eq_false hpos fun hf' => by rw [hf] at hf'; cases hf')
  · exact .of_not_stored ⟨rfl, rfl, rfl, rfl⟩ rfl (storesByte_eq_false hpos fun _ => .inl hhigh)
  · have hsame : SameAddresses s t ∧ t.sdBuf = s.sdBuf :=
      emit_keeps (P := fun t => SameAddresses s t ∧ t.sdBuf = s.sdBuf)
        ((steady_sameAddresses s).and ⟨fun _ _ _ _ h => h, fun _ _ h => h⟩)
        (fun _ hs' h' => by cases h'; exact ⟨{ hs'.1 with }, hs'.2⟩) ⟨.refl s, rfl⟩ hemit
    exact .of_not_stored hsame.1 hsame.2 (storesByte_eq_false hpos fun _ => .inr hlow)

theorem execSerRxData_frame {b : Byte} {s t : State} (h : execSerRxData b s = .next t) : DataFrame s t := by
  have hframe : DataFrame { s with sdEsc := false } t := collectByte_frame h
  exact ⟨{ hframe.addresses with }, hframe.otherBytes, hframe.notStored, hframe.stored⟩

/-- Settles O43: the control bytes are one update each, and a data byte stores where R161 says, at the position. -/
theorem rawBytesTouchOnlyTheDecoder : Obligations.RawBytesTouchOnlyTheDecoder := by
  refine ⟨fun s t h => ?_, fun s t h => ?_, fun b s t h => ?_⟩
  · cases h
    exact ⟨⟨rfl, rfl, rfl, rfl⟩, rfl, fun _ => rfl⟩
  · cases h
    exact ⟨⟨rfl, rfl, rfl, rfl⟩, rfl, rfl, rfl, fun _ => rfl⟩
  · obtain ⟨haddr, hother, hnot, hstored⟩ := execSerRxData_frame h
    exact ⟨haddr, hother, hnot, hstored⟩

/-! ### The self addresses (R21, R22, R33) -/

/-- The self addresses of `t` are those of `s`, but for the one an instruction redraws. -/
def SelfAddressesFrame (i : Instr) (s t : State) : Prop :=
  (i ≠ .radReinit → t.radSelf = s.radSelf) ∧ (i ≠ .serRedraw → t.serSelf = s.serSelf)

theorem selfAddressesFrame_of_radSend {i : Instr} {d : Byte} {p : List Byte} {s t : State} (h : radSend d p s = .next t) :
    SelfAddressesFrame i s t := by
  obtain ⟨⟨-, hser⟩, hrad, -⟩ := radSend_frame h
  exact ⟨fun _ => hrad, fun _ => hser⟩

/-- Settles O46: every frame above names the self addresses. -/
theorem selfAddressesChangeOnlyByRedraw : Obligations.SelfAddressesChangeOnlyByRedraw := by
  intro i s t h
  obtain hi | ⟨d, p, rfl⟩ | ⟨p, rfl⟩ | rfl | rfl | rfl | rfl | ⟨b, rfl⟩ | ⟨f, rfl⟩ := instr_classes i
  · have hsame := exec_keeps_of_readsOnly (steady_sameEngine s) hi (.refl s) h
    exact ⟨fun _ => hsame.radSelf, fun _ => hsame.serSelf⟩
  · exact selfAddressesFrame_of_radSend h
  · exact selfAddressesFrame_of_radSend h
  · exact ⟨fun hne => absurd rfl hne, fun _ => (execRadReinit_frame h).2⟩
  · exact ⟨fun _ => (execSerRedraw_frame h).2.1, fun hne => absurd rfl hne⟩
  · cases h; exact ⟨fun _ => rfl, fun _ => rfl⟩
  · cases h; exact ⟨fun _ => rfl, fun _ => rfl⟩
  · have hsame := (execSerRxData_frame h).addresses
    exact ⟨fun _ => hsame.radSelf, fun _ => hsame.serSelf⟩
  · obtain ⟨-, hrad, hser, -, -⟩ := execRadRx_frame h
    exact ⟨fun _ => hrad, fun _ => hser⟩

end Sys2Proof.Machine
end

section
/-!
PROOF. Everything the handling of an event can be, and everything a step can be (spec/43_control.md R193, spec/60_exceptions.md R207,
spec/70_reset_and_hazards.md R230, R241), said once.
-/
namespace Sys2Proof.Machine

/-- An event is handled as the instruction it decodes to, or answered with a status that is not `OK`. -/
theorem handleEvent_cases (e : Event) (s : State) :
    (∃ i, decode e = .ok i ∧ handleEvent e s = exec i s) ∨ ∃ st, st ≠ .OK ∧ handleEvent e s = raiseStatus st s := by
  cases hdecode : decode e with
  | ok i => exact .inl ⟨i, rfl, handleEvent_of_decode hdecode s⟩
  | error err =>
    cases err with
    | reservedOpcode => exact .inr ⟨.EBADOP, nofun, handleEvent_reserved hdecode s⟩
    | malformedLength => exact .inr ⟨.EFMT, nofun, handleEvent_malformed hdecode s⟩

/-- Everything a step can do: the reset sequence, nothing, or an event taken and handled. -/
theorem step_cases (s : State) :
    (s.resetTaken = true ∧ step s = resetSequence s) ∨
    (s.resetTaken = false ∧ step s = .next s) ∨
    (s.resetTaken = false ∧ s.stalled = none ∧
      ∃ e s', takeEvent s = some (e, s') ∧ step s = handleEvent e s'.begun) := by
  cases hr : s.resetTaken with
  | true => exact .inl ⟨rfl, step_of_resetTaken hr⟩
  | false =>
    cases hs : s.stalled with
    | some p =>
      rw [State.resetTaken, Option.isSome_eq_false_iff, Option.isNone_iff_eq_none] at hr
      exact .inr (.inl ⟨rfl, step_of_stalled hs hr⟩)
    | none =>
      cases htake : takeEvent s with
      | none => exact .inr (.inl ⟨rfl, step_of_no_event hr hs htake⟩)
      | some c => exact .inr (.inr ⟨rfl, rfl, c.1, c.2, rfl, step_of_takeEvent hr hs htake⟩)

end Sys2Proof.Machine
end

section
/-!
PROOF. The machine's dealings with the outside (spec/20_memory.md R56, R57, spec/70_reset_and_hazards.md R230). A property that does not
read the registers of R20 is kept by every instruction, event and reset sequence once outputs, waits and draws keep it.
-/
namespace Sys2Proof.Machine

/-! ### Properties that do not read the registers -/

/-- The machine `s` with the registers, tables, decoder and buffer of `e`. -/
def State.withEngine (s e : State) : State :=
  { s with
    radSelf := e.radSelf, serSelf := e.serSelf, dc := e.dc, rp := e.rp, sdState := e.sdState, sdEsc := e.sdEsc,
    sdPos := e.sdPos, sdCrcHi := e.sdCrcHi, sdBuf := e.sdBuf }

/-- A property that outputs, waits, draws and every write of a register keep. -/
structure Outer (P : State → Prop) : Prop extends Steady P where
  drawn : ∀ s, s.resetDue = false → P s → P s.drawn
  write : ∀ s e, P s → P (s.withEngine e)

theorem Outer.and {P Q : State → Prop} (hP : Outer P) (hQ : Outer Q) : Outer (fun s => P s ∧ Q s) where
  toSteady := hP.toSteady.and hQ.toSteady
  drawn s hr h := ⟨hP.drawn s hr h.1, hQ.drawn s hr h.2⟩
  write s e h := ⟨hP.write s e h.1, hQ.write s e h.2⟩

section
variable {P : State → Prop} (hP : Outer P) {s t : State}
include hP

theorem Outer.learn (hs : P s) (src reply : Byte) : P (learn src reply s) := by
  obtain h | ⟨-, -, h⟩ := learn_cases src reply s
  · rw [h]; exact hs
  · rw [h]; exact hP.write s { s with dc := s.dc ++ [⟨src, reply⟩] } hs

theorem radSend_keeps_outer {d : Byte} {p : List Byte} (hs : P s) (h : radSend d p s = .next t) : P t :=
  radSend_keeps hP.toSteady hP.drawn
    (fun s' d' c hs' _ _ _ => hP.write s' { s' with rp := (tblTryInsert s'.cfg.rpCap s'.rp d' c).2 } hs') hs h

theorem radioInit_keeps_outer {k : State → Result} (hk : ∀ s', P s' → k s' = .next t → P t) (hs : P s)
    (h : radioInit s k = .next t) : P t :=
  radioInit_keeps hP.toSteady (hP.drawn s)
    (fun d _ hs' => hP.write s.drawn { s.drawn with radSelf := d, dc := tableReset, rp := tableReset } hs') hk hs h

theorem collectByte_keeps_outer {x : Byte} (hs : P s) (h : collectByte x s = .next t) : P t := by
  obtain ⟨-, rfl⟩ | ⟨-, -, -, rfl⟩ | ⟨-, -, -, rfl⟩ | ⟨-, -, -, -, rfl⟩ | ⟨-, -, -, -, hemit⟩ := collectByte_next h
  · exact hs
  · exact hP.write s (nextPos { s with sdBuf := bufSet s.sdBuf s.sdPos.toNat x }) hs
  · exact hP.write s { s with sdState := .dropping } hs
  · exact hP.write s (nextPos { s with sdCrcHi := x }) hs
  · exact emit_keeps hP.toSteady (fun s' hs' h' => by cases h'; exact hP.write s' (endFrame s') hs') hs hemit

/-- Every instruction keeps such a property. -/
theorem exec_keeps_outer {i : Instr} (hs : P s) (h : exec i s = .next t) : P t := by
  obtain hi | ⟨d, p, rfl⟩ | ⟨p, rfl⟩ | rfl | rfl | rfl | rfl | ⟨b, rfl⟩ | ⟨f, rfl⟩ := instr_classes i
  · exact exec_keeps_of_readsOnly hP.toSteady hi hs h
  · exact radSend_keeps_outer hP hs h
  · exact radSend_keeps_outer hP hs h
  · exact radioInit_keeps_outer hP (fun _ => respond_keeps hP.toSteady) hs h
  · exact execSerRedraw_keeps hP.toSteady (hP.drawn s)
      (fun d _ hs' => hP.write s.drawn { s.drawn with serSelf := d } hs') hs h
  · cases h; exact hP.write s { s with sdPos := 0#16, sdEsc := false, sdState := .collecting } hs
  · cases h; exact hP.write s { s with sdEsc := true } hs
  · exact collectByte_keeps_outer hP (hP.write s { s with sdEsc := false } hs) h
  · exact execRadRx_keeps hP.toSteady hs (hP.learn hs) h

theorem handleEvent_keeps_outer {e : Event} (hs : P s) (h : handleEvent e s = .next t) : P t := by
  obtain ⟨i, -, heq⟩ | ⟨st, -, heq⟩ := handleEvent_cases e s
  · rw [heq] at h
    exact exec_keeps_outer hP hs h
  · rw [heq] at h
    exact raiseStatus_keeps hP.toSteady hs h

theorem resetSequence_keeps_outer (hs : P s.resetBegun) (h : resetSequence s = .next t) : P t :=
  radioInit_keeps_outer hP (s := s.resetBegun)
    (fun s' => draw_keeps hP.toSteady (hP.drawn s') fun hs' h' => by
      cases h'
      exact hP.write s'.drawn { s'.drawn with
        serSelf := s'.nextDraw, sdState := .dropping, sdEsc := false, sdPos := 0#16, sdCrcHi := 0x00#8, sdBuf := [] } hs')
    hs h

end

/-! ### Parameters, inputs and history (R6, R56, R57) -/

/-- The parameters, the pending events, the arbiter's order and the planned resets of `t` are those of `s`, and what `s` has
emitted stays emitted. -/
def SameInputs (s t : State) : Prop :=
  t.cfg = s.cfg ∧ t.cmdIn = s.cmdIn ∧ t.serIn = s.serIn ∧ t.radIn = s.radIn ∧ t.arb = s.arb ∧ t.resets = s.resets ∧
    s.out <+: t.out

theorem SameInputs.refl (s : State) : SameInputs s s := ⟨rfl, rfl, rfl, rfl, rfl, rfl, List.prefix_rfl⟩

theorem outer_sameInputs (s : State) : Outer (SameInputs s) where
  emitted t o _ _ h := by
    obtain ⟨hcfg, hcmd, hser, hrad, harb, hresets, hout⟩ := h
    exact ⟨hcfg, hcmd, hser, hrad, harb, hresets, hout.trans (List.prefix_append t.out [o])⟩
  waitFor _ _ h := h
  drawn t _ h := by simpa [SameInputs] using h
  write _ _ h := h

/-- Settles O44: what an instruction does to these fields is done by its outputs, and those append. -/
theorem execKeepsParametersInputsAndHistory : Obligations.ExecKeepsParametersInputsAndHistory := fun _ s _ h =>
  exec_keeps_outer (outer_sameInputs s) (.refl s) h

/-! ### A reset within the event (R230) -/

/-- A reset is to come, and the history and the handshakes before it are at most `n` together. -/
def ResetWithin (n : Nat) (t : State) : Prop := ∃ m, t.resetIn = some m ∧ t.out.length + m ≤ n

/-- Where no reset is due, a count has a handshake to give. -/
theorem resetIn_pos {s : State} {m : Nat} (hdue : s.resetDue = false) (h : s.resetIn = some m) : 0 < m := by
  refine Nat.pos_of_ne_zero ?_
  rintro rfl
  simp [State.resetDue, h] at hdue

theorem outer_resetWithin (n : Nat) : Outer (ResetWithin n) where
  emitted s o hdue _ h := by
    obtain ⟨m, hm, hle⟩ := h
    have hpos := resetIn_pos hdue hm
    refine ⟨m - 1, by rw [State.emitted_resetIn, hm, Option.map_some], ?_⟩
    rw [State.emitted_out, List.length_append, List.length_singleton]
    omega
  waitFor _ _ h := h
  drawn s _ h := by
    obtain ⟨m, hm, hle⟩ := h
    refine ⟨m - 1, by rw [State.drawn_resetIn, hm, Option.map_some], ?_⟩
    rw [State.drawn_out]
    omega
  write _ _ h := h

theorem ResetWithin.length_le {n : Nat} {t : State} (h : ResetWithin n t) : t.out.length ≤ n := by
  obtain ⟨m, -, hle⟩ := h
  omega

theorem ResetWithin.resetTaken {n : Nat} {t : State} (h : ResetWithin n t) : t.resetTaken = true := by
  obtain ⟨m, hm, -⟩ := h
  rw [State.resetTaken, hm, Option.isSome_some]

theorem State.resetBegun_resetIn (s : State) : s.resetBegun.resetIn = s.resets.head?.join := rfl

/-- Settles O51: the outputs use up the count of the reset, and a count that is left means a reset sequence next. -/
theorem resetAbandonsTheEvent : Obligations.ResetAbandonsTheEvent := by
  refine ⟨fun i s t n hn h => ?_, fun s s' t e n rest htaken hstalled htake hresets h => ?_,
    fun s t n rest htaken hresets h => ?_⟩
  · have hwithin : ResetWithin (s.out.length + n) t := exec_keeps_outer (outer_resetWithin _) ⟨n, hn, Nat.le_refl _⟩ h
    exact ⟨hwithin.length_le, step_of_resetTaken hwithin.resetTaken⟩
  · rw [step_of_takeEvent htaken hstalled htake] at h
    have hout : s'.out = s.out := by rw [takeEvent_state htake]
    have hbegun : ResetWithin (s.out.length + n) s'.begun :=
      ⟨n, by rw [State.begun_resetIn, takeEvent_resets htake, hresets]; rfl, by rw [State.begun_out, hout]⟩
    have hwithin := handleEvent_keeps_outer (outer_resetWithin _) hbegun h
    obtain ⟨-, hcmd, hser, hrad, -, hrest, -⟩ := handleEvent_keeps_outer (outer_sameInputs _) (.refl _) h
    refine ⟨hwithin.length_le, hcmd, hser, hrad, ?_, step_of_resetTaken hwithin.resetTaken⟩
    rw [hrest, State.begun_resets, takeEvent_resets htake, hresets, List.tail_cons]
  · rw [step_of_resetTaken htaken] at h
    have hbegun : ResetWithin (s.out.length + n) s.resetBegun :=
      ⟨n, by rw [State.resetBegun_resetIn, hresets]; rfl, Nat.le_refl _⟩
    have hwithin := resetSequence_keeps_outer (outer_resetWithin _) hbegun h
    obtain ⟨-, -, -, -, -, hrest, -⟩ := resetSequence_keeps_outer (outer_sameInputs _) (.refl _) h
    refine ⟨hwithin.length_le, ?_, step_of_resetTaken hwithin.resetTaken⟩
    rw [hrest, State.resetBegun_resets, hresets, List.tail_cons]

end Sys2Proof.Machine
end

section
/-!
PROOF. The invariant of every run (spec/10_state.md sections 2 to 4, spec/20_memory.md R52). Outputs, waits and draws keep it, and so does
each write an instruction makes: an insertion, a redraw with empty tables, a byte stored within the frame.
-/
namespace Sys2Proof.Machine

/-! ### Outputs, waits, draws -/

theorem steady_inv : Steady State.Inv := ⟨fun _ _ _ _ h => { h with }, fun _ _ h => { h with }⟩

/-- A draw writes only the fields of the random source, the ports and the reset input. -/
theorem drawn_eq (s : State) :
    s.drawn = { s with
      draws := s.drawn.draws, drawCount := s.drawn.drawCount, accepts := s.drawn.accepts, resetIn := s.drawn.resetIn } := by
  unfold State.drawn
  split <;> rfl

theorem State.Inv.drawn {s : State} (h : s.Inv) : s.drawn.Inv := by
  rw [drawn_eq]
  exact { h with }

/-! ### The tables (R25, R102, R131) -/

theorem macsDistinct_append {t : Table} {mac : Byte} (ht : Table.macsDistinct t) (h : tblLookup t mac = none) (phy : Byte) :
    Table.macsDistinct (t ++ [⟨mac, phy⟩]) := by
  have hnew : mac ∉ t.map Slot.mac := by
    rw [List.mem_map]
    rintro ⟨sl, hsl, hmac⟩
    exact tblLookup_none.mp h sl hsl hmac
  rw [Table.macsDistinct, List.map_append, List.map_singleton, ← List.concat_eq_append]
  exact List.Nodup.concat hnew ht

theorem physDistinct_append {t : Table} {phy : Byte} (ht : Table.physDistinct t) (h : ∀ sl ∈ t, sl.phy ≠ phy) (mac : Byte) :
    Table.physDistinct (t ++ [⟨mac, phy⟩]) := by
  have hnew : phy ∉ t.map Slot.phy := by
    rw [List.mem_map]
    rintro ⟨sl, hsl, hphy⟩
    exact h sl hsl hphy
  rw [Table.physDistinct, List.map_append, List.map_singleton, ← List.concat_eq_append]
  exact List.Nodup.concat hnew ht

theorem State.Inv.append_rp {s : State} {d c : Byte} (h : s.Inv) (hd : d ≠ BCAST_MAC) (hc : c ≠ 0x00#8)
    (hfree : freePhy c s = true) (hnew : tblLookup s.rp d = none) (hroom : s.rp.length ≠ s.cfg.rpCap) :
    ({ s with rp := s.rp ++ [⟨d, c⟩] } : State).Inv := by
  obtain ⟨hself, hnone⟩ := freePhy_iff.mp hfree
  have hphy : ∀ sl ∈ s.rp, sl.phy ≠ c := fun sl hsl => (hnone sl (List.mem_append_right _ hsl)).2
  exact { h with
    rpCount := by rw [List.length_append, List.length_singleton]; exact Nat.lt_of_le_of_ne h.rpCount hroom
    rpMacs := macsDistinct_append h.rpMacs hnew c
    rpMacNonzero := List.forall_mem_append.mpr ⟨h.rpMacNonzero, List.forall_mem_singleton.mpr hd⟩
    rpPhy := List.forall_mem_append.mpr ⟨h.rpPhy, List.forall_mem_singleton.mpr ⟨hc, hself⟩⟩
    rpPhys := physDistinct_append h.rpPhys hphy d }

theorem State.Inv.insert_rp {s : State} {d c : Byte} (h : s.Inv) (hd : d ≠ BCAST_MAC) (hc : c ≠ 0x00#8)
    (hfree : freePhy c s = true) : ({ s with rp := (tblTryInsert s.cfg.rpCap s.rp d c).2 } : State).Inv := by
  obtain ⟨heq, -⟩ | ⟨heq, hnew, hroom⟩ := tblTryInsert_cases s.cfg.rpCap s.rp d c
  · rw [heq]; exact h
  · rw [heq]; exact h.append_rp hd hc hfree hnew hroom

theorem State.Inv.learn {s : State} (h : s.Inv) (src reply : Byte) : (learn src reply s).Inv := by
  obtain heq | ⟨hnew, hroom, heq⟩ := learn_cases src reply s
  · rw [heq]; exact h
  · rw [heq]
    exact { h with
      dcCount := by rw [List.length_append, List.length_singleton]; exact Nat.lt_of_le_of_ne h.dcCount hroom
      dcMacs := macsDistinct_append h.dcMacs hnew reply }

/-! ### Redraws (R121, R166, R232) -/

theorem State.Inv.redraw_radSelf {s : State} (h : s.Inv) {d : Byte} (hd : d ≠ 0x00#8) :
    ({ s with radSelf := d, dc := tableReset, rp := tableReset } : State).Inv :=
  { h with
    radSelf := hd
    dcCount := Nat.zero_le _
    rpCount := Nat.zero_le _
    dcMacs := List.nodup_nil
    rpMacs := List.nodup_nil
    rpMacNonzero := by rintro _ ⟨⟩
    rpPhy := by rintro _ ⟨⟩
    rpPhys := List.nodup_nil }

theorem State.Inv.redraw_serSelf {s : State} (h : s.Inv) {d : Byte} (hd : d ≠ 0x00#8) : ({ s with serSelf := d } : State).Inv :=
  { h with serSelf := hd }

theorem State.Inv.serialCleared {s : State} (h : s.Inv) : s.serialCleared.Inv :=
  { h.drawn.redraw_serSelf (nextDraw_ne_zero s) with
    bufWf := reset_bufWf
    bufRange := by rintro _ ⟨⟩
    pos := Nat.zero_le _
    frame := nofun }

theorem radioInit_keeps_inv {s t : State} {k : State → Result} (hk : ∀ s', s'.Inv → k s' = .next t → t.Inv) (hs : s.Inv)
    (h : radioInit s k = .next t) : t.Inv :=
  radioInit_keeps steady_inv (fun _ h => h.drawn) (fun _ hd h => h.redraw_radSelf hd) hk hs h

/-! ### The decoder (R28, R52) -/

theorem nextPos_toNat_le (s : State) : (nextPos s).sdPos.toNat ≤ s.sdPos.toNat + 1 := by
  rw [nextPos, BitVec.toNat_add]
  exact Nat.mod_le _ _

/-- A frame that passes the filter fits, up to its CRC bytes (R158). -/
theorem length_le_of_not_turnedAway {s : State} (hcfg : s.cfg.Valid) (hf : frameTurnedAway s = false) :
    (bufGet s.sdBuf 0).toNat + 5 ≤ s.cfg.serMax := by
  rw [← Bool.not_eq_true, frameTurnedAway_iff, not_or] at hf
  have hlow := hcfg.serMax_low
  have hlen := hf.1
  omega

theorem State.FrameUnderWay.of_le {s : State} (hlen : (bufGet s.sdBuf 0).toNat + 5 ≤ s.cfg.serMax)
    (hpos : s.sdPos.toNat ≤ (bufGet s.sdBuf 0).toNat + 4) : s.FrameUnderWay :=
  ⟨Nat.le_sub_of_add_le hlen, hpos⟩

/-- In a state of the invariant the position of a frame that passes the filter is within it. -/
theorem State.Inv.pos_le_of_not_turnedAway {s : State} (h : s.Inv) (hst : s.sdState = .collecting) :
    s.sdPos.toNat ≤ (bufGet s.sdBuf 0).toNat + 4 := by
  obtain hpos | ⟨-, hpos⟩ := h.frame hst
  · omega
  · exact hpos

theorem State.Inv.with_sdEsc {s : State} (h : s.Inv) (e : Bool) : ({ s with sdEsc := e } : State).Inv := { h with }

theorem State.Inv.drop {s : State} (h : s.Inv) : ({ s with sdState := .dropping } : State).Inv := { h with frame := nofun }

/-- The position moves on within a frame that passes the filter. -/
theorem State.Inv.nextPos {s : State} (h : s.Inv) (hlen : (bufGet s.sdBuf 0).toNat + 5 ≤ s.cfg.serMax)
    (hpos : s.sdPos.toNat ≤ (bufGet s.sdBuf 0).toNat + 3) : (nextPos s).Inv := by
  have hnext := nextPos_toNat_le s
  exact { h with
    pos := by have hmax : (Machine.nextPos s).sdPos.toNat ≤ s.cfg.serMax := by omega
              exact hmax
    frame := fun _ => .inr (.of_le hlen (hnext.trans (Nat.succ_le_succ hpos))) }

/-- A byte of the header is stored (R157). -/
theorem State.Inv.store_header {s : State} (h : s.Inv) (hpos : s.sdPos.toNat ≤ 2) (hin : s.sdPos.toNat < s.cfg.serMax)
    (x : Byte) : (Machine.nextPos { s with sdBuf := bufSet s.sdBuf s.sdPos.toNat x }).Inv := by
  have hnext := nextPos_toNat_le s
  exact { h with
    bufWf := bufSet_wf h.bufWf _ _
    bufRange := bufSet_range h.bufRange hin
    pos := hnext.trans hin
    frame := fun _ => .inl (hnext.trans (Nat.succ_le_succ hpos)) }

/-- A byte of the payload is stored (R161). -/
theorem State.Inv.store_payload {s : State} (h : s.Inv) (hlow : 2 < s.sdPos.toNat)
    (hlen : (bufGet s.sdBuf 0).toNat + 5 ≤ s.cfg.serMax) (hpos : s.sdPos.toNat < (bufGet s.sdBuf 0).toNat + 3) (x : Byte) :
    (Machine.nextPos { s with sdBuf := bufSet s.sdBuf s.sdPos.toNat x }).Inv := by
  have hin : s.sdPos.toNat < s.cfg.serMax := by omega
  have hlength : bufGet (bufSet s.sdBuf s.sdPos.toNat x) 0 = bufGet s.sdBuf 0 := bufGet_bufSet_other (by omega)
  have hstored : ({ s with sdBuf := bufSet s.sdBuf s.sdPos.toNat x } : State).Inv :=
    { h with
      bufWf := bufSet_wf h.bufWf _ _
      bufRange := bufSet_range h.bufRange hin
      frame := fun hst => (h.frame hst).imp_right fun hframe => by
        rw [State.FrameUnderWay, hlength]
        exact hframe }
  refine hstored.nextPos ?_ ?_
  · rw [hlength]; exact hlen
  · rw [hlength]; exact hpos.le

theorem State.Inv.endFrame {s : State} (h : s.Inv) (hpos : s.sdPos.toNat < s.cfg.serMax) : (endFrame s).Inv :=
  { h with
    pos := (nextPos_toNat_le s).trans hpos
    frame := nofun }

theorem collectByte_keeps_inv {x : Byte} {s t : State} (hs : s.Inv) (h : collectByte x s = .next t) : t.Inv := by
  obtain ⟨-, rfl⟩ | ⟨hst, hin, hstore, rfl⟩ | ⟨-, -, -, rfl⟩ | ⟨hst, -, hf, hhigh, rfl⟩ | ⟨hst, -, hf, hlow, hemit⟩ :=
    collectByte_next h
  · exact hs
  · by_cases hpos : s.sdPos.toNat ≤ 2
    · exact hs.store_header hpos hin x
    · obtain ⟨hf, hhigh, hlow⟩ := hstore.resolve_left hpos
      have hle := hs.pos_le_of_not_turnedAway hst
      exact hs.store_payload (by omega) (length_le_of_not_turnedAway hs.cfg hf) (by omega) x
  · exact hs.drop
  · have hlatched : ({ s with sdCrcHi := x } : State).Inv := { hs with }
    exact hlatched.nextPos (length_le_of_not_turnedAway hs.cfg hf) hhigh.le
  · have hin : s.sdPos.toNat < s.cfg.serMax := by
      have hlen := length_le_of_not_turnedAway hs.cfg hf
      omega
    obtain ⟨-, rfl⟩ | ⟨-, -, rfl⟩ | ⟨hr, hb, hend⟩ := emit_next hemit
    · exact hs
    · exact steady_inv.waitFor s _ hs
    · cases hend
      exact (steady_inv.emitted s _ hr hb hs).endFrame hin

/-! ### Instructions, events, steps -/

theorem exec_keeps_inv {i : Instr} {s t : State} (hs : s.Inv) (h : exec i s = .next t) : t.Inv := by
  have hsend : ∀ {d p}, radSend d p s = .next t → t.Inv := fun h =>
    radSend_keeps steady_inv (fun _ _ h => h.drawn) (fun _ _ _ h hd hc hf => h.insert_rp hd hc hf) hs h
  obtain hi | ⟨d, p, rfl⟩ | ⟨p, rfl⟩ | rfl | rfl | rfl | rfl | ⟨b, rfl⟩ | ⟨f, rfl⟩ := instr_classes i
  · exact exec_keeps_of_readsOnly steady_inv hi hs h
  · exact hsend h
  · exact hsend h
  · exact radioInit_keeps_inv (fun _ => respond_keeps steady_inv) hs h
  · exact execSerRedraw_keeps steady_inv (fun _ h => h.drawn) (fun _ hd h => h.redraw_serSelf hd) hs h
  · cases h
    exact { hs with pos := Nat.zero_le _, frame := fun _ => .inl (Nat.zero_le _) }
  · cases h
    exact hs.with_sdEsc true
  · exact collectByte_keeps_inv (hs.with_sdEsc false) h
  · exact execRadRx_keeps steady_inv hs hs.learn h

theorem handleEvent_keeps_inv {e : Event} {s t : State} (hs : s.Inv) (h : handleEvent e s = .next t) : t.Inv := by
  obtain ⟨i, -, heq⟩ | ⟨st, -, heq⟩ := handleEvent_cases e s
  · rw [heq] at h
    exact exec_keeps_inv hs h
  · rw [heq] at h
    exact raiseStatus_keeps steady_inv hs h

theorem serialInit_keeps_inv {s t : State} (hs : s.Inv) (h : serialInit s = .next t) : t.Inv :=
  draw_keeps steady_inv (fun _ h => h.drawn) (fun _ h => by cases h; exact hs.serialCleared) hs h

theorem State.Inv.resetBegun {s : State} (h : s.Inv) : s.resetBegun.Inv := { h with }

theorem takeEvent_keeps_inv {s s' : State} {e : Event} (hs : s.Inv) (h : takeEvent s = some (e, s')) : s'.begun.Inv := by
  rw [takeEvent_state h]
  exact { hs with }

/-- Settles O53: every write of an instruction or of the reset sequence keeps the invariant. -/
theorem stepKeepsTheInvariant : Obligations.StepKeepsTheInvariant := by
  intro s t hs h
  obtain ⟨-, hstep⟩ | ⟨-, hstep⟩ | ⟨-, -, e, s', htake, hstep⟩ := step_cases s
  · rw [hstep] at h
    exact radioInit_keeps_inv (fun _ => serialInit_keeps_inv) hs.resetBegun h
  · rw [hstep] at h
    cases h
    exact hs
  · rw [hstep] at h
    exact handleEvent_keeps_inv (takeEvent_keeps_inv hs htake) h

end Sys2Proof.Machine
end

section
/-!
PROOF. Completion (spec/60_exceptions.md R204, R205, spec/42_serial_framer.md R168). Outputs, draws and tests answer a next state whatever the
ports accept and wherever a reset falls; only an access to the frame buffer could fault, and the invariant keeps every one in range.
-/
namespace Sys2Proof.Machine

/-- The outcome is a next state. -/
def Completes (r : Result) : Prop := ∃ t, r = .next t

theorem completes_next (s : State) : Completes (.next s) := ⟨s, rfl⟩

theorem completes_ite {c : Prop} [Decidable c] {r₁ r₂ : Result} (h₁ : c → Completes r₁) (h₂ : ¬c → Completes r₂) :
    Completes (if c then r₁ else r₂) := by
  by_cases hc : c
  · simpa only [if_pos hc] using h₁ hc
  · simpa only [if_neg hc] using h₂ hc

/-! ### Outputs and draws -/

theorem completes_emit {k : State → Result} (hk : ∀ s, Completes (k s)) (o : Output) (s : State) : Completes (emit o s k) :=
  completes_ite (fun _ => completes_next _) fun _ => completes_ite (fun _ => completes_next _) fun _ => hk _

theorem completes_emitAll {k : State → Result} (hk : ∀ s, Completes (k s)) (os : List Output) (s : State) :
    Completes (emitAll os s k) := by
  induction os generalizing s with
  | nil => exact hk s
  | cons o os ih => exact completes_emit ih o s

theorem completes_draw {k : Byte → State → Result} (hk : ∀ d s, Completes (k d s)) (s : State) : Completes (draw s k) :=
  completes_ite (fun _ => completes_next _) fun _ => completes_ite (fun _ => completes_next _) fun _ => hk _ _

theorem completes_respond (bs : List Byte) (s : State) : Completes (respond bs s) := completes_emit completes_next _ s

theorem completes_raiseStatus (st : Status) (s : State) : Completes (raiseStatus st s) := completes_emit completes_next _ s

/-! ### Instructions that access no byte of the frame buffer -/

theorem completes_serSend (d : Byte) (p : List Byte) (s : State) : Completes (serSend d p s) :=
  completes_ite (fun _ => completes_raiseStatus _ s) fun _ => completes_emitAll (completes_respond []) _ s

theorem completes_execRegRead (r : Byte) (s : State) : Completes (execRegRead r s) := by
  unfold execRegRead
  split
  · exact completes_respond _ s
  · exact completes_raiseStatus _ s

theorem completes_execTblLookup (a m : Byte) (s : State) : Completes (execTblLookup a m s) := by
  unfold execTblLookup
  split
  · exact completes_raiseStatus _ s
  · exact completes_respond _ s

theorem completes_execTblContains (a role v : Byte) (s : State) : Completes (execTblContains a role v s) := by
  unfold execTblContains
  split
  · exact completes_respond _ s
  · exact completes_raiseStatus _ s

theorem completes_execTblRead (a k : Byte) (s : State) : Completes (execTblRead a k s) := by
  unfold execTblRead
  split
  · exact completes_raiseStatus _ s
  · exact completes_ite (fun _ => completes_raiseStatus _ s) fun _ => completes_respond _ s

theorem completes_of_readsOnly {i : Instr} (hi : ReadsOnly i) (s : State) : Completes (exec i s) := by
  obtain rfl | ⟨r, rfl⟩ | ⟨a, b, rfl⟩ | ⟨a, b, c, rfl⟩ | ⟨a, b, rfl⟩ | ⟨d, p, rfl⟩ | ⟨p, rfl⟩ := hi
  · exact completes_respond [] s
  · exact completes_execRegRead r s
  · exact completes_execTblLookup a b s
  · exact completes_execTblContains a b c s
  · exact completes_execTblRead a b s
  · exact completes_serSend d p s
  · exact completes_serSend _ p s

theorem completes_allocPhy {k : Option Byte → State → Result} (hk : ∀ c s, Completes (k c s)) (n : Nat) (s : State) :
    Completes (allocPhy n s k) := by
  induction n generalizing s with
  | zero => exact hk none s
  | succ n ih => exact completes_draw (fun c s => completes_ite (fun _ => hk (some c) s) fun _ => ih s) s

theorem completes_radReply {k : Byte → State → Result} (hk : ∀ reply s, Completes (k reply s)) (d : Byte) (s : State) :
    Completes (radReply d s k) := by
  refine completes_ite (fun _ => hk _ s) fun _ => ?_
  split
  · exact hk _ s
  · refine completes_ite (fun _ => hk _ s) fun _ => completes_allocPhy (fun c s' => ?_) _ s
    cases c with
    | none => exact hk _ s'
    | some c => exact completes_emit (hk c) _ _

theorem completes_radSend (d : Byte) (p : List Byte) (s : State) : Completes (radSend d p s) :=
  completes_ite (fun _ => completes_raiseStatus _ s) fun _ =>
    completes_radReply (fun _ s' => completes_emitAll (completes_respond []) _ s') d s

theorem completes_radioInit {k : State → Result} (hk : ∀ s, Completes (k s)) (s : State) : Completes (radioInit s k) :=
  completes_draw (fun _ _ => completes_emitAll hk _ _) s

theorem completes_resetSequence (s : State) : Completes (resetSequence s) :=
  completes_radioInit (completes_draw fun _ _ => completes_next _) s.resetBegun

theorem completes_execRadRx (f : List Byte) (s : State) : Completes (execRadRx f s) := by
  unfold execRadRx
  split
  · exact completes_ite (fun _ => completes_next s) fun _ => completes_emit completes_next _ _
  · exact completes_next s

/-! ### The decoder (R51, R52) -/

theorem completes_collectByte {s : State} (hs : s.Inv) (x : Byte) : Completes (collectByte x s) := by
  cases hst : s.sdState with
  | dropping => rw [collectByte_dropping hst]; exact completes_next s
  | collecting =>
    by_cases hpos : s.sdPos.toNat ≤ 2
    · rw [collectByte_header hs.cfg hst hpos]
      exact completes_next _
    · rw [collectByte_body hs.cfg hst (Nat.lt_of_not_le hpos)]
      refine completes_ite (fun _ => completes_next _) fun hf => completes_ite (fun _ => completes_next _) fun hhigh =>
        completes_ite (fun _ => ?_) fun hlow => ?_
      all_goals
        have hlen := length_le_of_not_turnedAway hs.cfg (eq_false_of_ne_true hf)
      · rw [checkFrame_inside (by omega)]
        exact completes_emit (fun _ => completes_next _) _ s
      · have hle := hs.pos_le_of_not_turnedAway hst
        rw [memWrite_inside (by omega)]
        exact completes_next _

/-! ### Instructions, events, steps -/

theorem completes_exec {s : State} (hs : s.Inv) (i : Instr) : Completes (exec i s) := by
  obtain hi | ⟨d, p, rfl⟩ | ⟨p, rfl⟩ | rfl | rfl | rfl | rfl | ⟨b, rfl⟩ | ⟨f, rfl⟩ := instr_classes i
  · exact completes_of_readsOnly hi s
  · exact completes_radSend d p s
  · exact completes_radSend _ p s
  · exact completes_radioInit (completes_respond []) s
  · exact completes_draw (fun _ _ => completes_respond [] _) s
  · exact completes_next _
  · exact completes_next _
  · exact completes_collectByte (hs.with_sdEsc false) _
  · exact completes_execRadRx f s

theorem completes_step {s : State} (hs : s.Inv) : Completes (step s) := by
  obtain ⟨-, hstep⟩ | ⟨-, hstep⟩ | ⟨-, -, e, s', htake, hstep⟩ := step_cases s
  · rw [hstep]; exact completes_resetSequence s
  · rw [hstep]; exact completes_next s
  · rw [hstep]
    obtain ⟨i, -, heq⟩ | ⟨st, -, heq⟩ := handleEvent_cases e s'.begun
    · rw [heq]; exact completes_exec (takeEvent_keeps_inv hs htake) i
    · rw [heq]; exact completes_raiseStatus st _

/-- Settles O54: by induction on the number of steps, each of which completes and keeps the invariant. -/
theorem noRunFaults : Obligations.NoRunFaults := by
  intro s n hs
  induction n generalizing s with
  | zero => exact ⟨s, rfl, hs⟩
  | succ n ih =>
    obtain ⟨t, ht⟩ := completes_step hs
    rw [run_succ_of_step ht]
    exact ih t (stepKeepsTheInvariant s t hs ht)

/-! ### Readiness after an instruction -/

/-- The ports accept everything and no reset is asserted. -/
def Unhindered (s : State) : Prop := s.accepts = Accepts.unlimited ∧ s.resetIn = none

theorem outer_unhindered : Outer Unhindered where
  emitted s o _ _ h := by
    obtain ⟨haccepts, hreset⟩ := h
    exact ⟨by rw [State.emitted_accepts, haccepts, Accepts.unlimited_use],
      by rw [State.emitted_resetIn, hreset, Option.map_none]⟩
  waitFor _ _ h := h
  drawn s _ h := by
    obtain ⟨haccepts, hreset⟩ := h
    exact ⟨by rw [State.drawn_accepts, haccepts, Accepts.unlimited_use],
      by rw [State.drawn_resetIn, hreset, Option.map_none]⟩
  write _ _ h := h

/-- An instruction before collaborators that accept everything ends as its full run does, so the machine waits for no one. -/
theorem exec_keeps_ready {i : Instr} {s t : State} (hs : s.Ready) (h : exec i s = .next t) : t.Ready := by
  obtain ⟨haccepts, hreset⟩ := exec_keeps_outer outer_unhindered (s := s) ⟨hs.accepts, hs.resetIn⟩ h
  have hfull : exec i s.madeReady = .next t := by rw [hs.madeReady_eq, h]
  obtain ⟨-, heq | ⟨n, hn, -⟩ | ⟨p, -, hblocked⟩, -⟩ := cutShortEventsEmitAPrefix i s t t h hfull
  · exact heq ▸ t.madeReady_ready
  · cases hs.resetIn.symm.trans hn
  · rw [State.blocked, haccepts, Accepts.unlimited_get] at hblocked
    cases hblocked

/-- Settles O55: the instruction completes as it does before any collaborators, and leaves the machine ready. -/
theorem everyInstructionCompletes : Obligations.EveryInstructionCompletes := by
  intro i s hs hready
  obtain ⟨t, ht⟩ := completes_exec hs i
  exact ⟨t, ht, exec_keeps_ready hready ht⟩

end Sys2Proof.Machine
end

section
/-!
PROOF. The response of a command (spec/30_encoding.md R70, R76, spec/60_exceptions.md R201). Before collaborators that accept, a command is
refused with its status alone, or it ends with an `OK` response after outputs that are no response.
-/
namespace Sys2Proof.Machine

/-! ### What each instruction emits before collaborators that accept -/

/-- The one effect of the command run from `s` is the status that refuses it. -/
def Refused (s : State) (r : Result) : Prop := ∃ st, r = .next (s.withOut [Output.response [statusCode st]])

/-- The command run from `s` writes nothing but bytes of the stream and its `OK` response. -/
def AnsweredOnly (s : State) (r : Result) : Prop :=
  ∃ ws bs : List Byte, r = .next (s.withOut (ws.map Output.writeByte ++ [Output.response (0x00#8 :: bs)]))

section
variable {s : State} (hs : s.Ready)
include hs

theorem refused_raiseStatus (st : Status) : Refused s (raiseStatus st s) := ⟨st, raiseStatus_ready hs st⟩

theorem answeredOnly_respond (bs : List Byte) : AnsweredOnly s (respond bs s) := ⟨[], bs, respond_ready hs bs⟩

theorem serSend_answer (d : Byte) (p : List Byte) : Refused s (serSend d p s) ∨ AnsweredOnly s (serSend d p s) := by
  by_cases hp : p.length ≤ s.cfg.serPlMax
  · exact .inr ⟨_, [], serSend_within_ready hs hp d⟩
  · exact .inl ⟨.ELEN, serSend_beyond_ready hs (Nat.lt_of_not_le hp) d⟩

theorem execRegRead_answer (r : Byte) : Refused s (execRegRead r s) ∨ AnsweredOnly s (execRegRead r s) := by
  unfold execRegRead
  split
  · exact .inr (answeredOnly_respond hs _)
  · exact .inl (refused_raiseStatus hs _)

theorem execTblLookup_answer (a m : Byte) : Refused s (execTblLookup a m s) ∨ AnsweredOnly s (execTblLookup a m s) := by
  unfold execTblLookup
  split
  · exact .inl (refused_raiseStatus hs _)
  · exact .inr (answeredOnly_respond hs _)

theorem execTblContains_answer (a role v : Byte) :
    Refused s (execTblContains a role v s) ∨ AnsweredOnly s (execTblContains a role v s) := by
  unfold execTblContains
  split
  · exact .inr (answeredOnly_respond hs _)
  · exact .inl (refused_raiseStatus hs _)

theorem execTblRead_answer (a k : Byte) : Refused s (execTblRead a k s) ∨ AnsweredOnly s (execTblRead a k s) := by
  unfold execTblRead
  split
  · exact .inl (refused_raiseStatus hs _)
  · split
    · exact .inl (refused_raiseStatus hs _)
    · exact .inr (answeredOnly_respond hs _)

theorem readsOnly_answer {i : Instr} (hi : ReadsOnly i) : Refused s (exec i s) ∨ AnsweredOnly s (exec i s) := by
  obtain rfl | ⟨r, rfl⟩ | ⟨a, b, rfl⟩ | ⟨a, b, c, rfl⟩ | ⟨a, b, rfl⟩ | ⟨d, p, rfl⟩ | ⟨p, rfl⟩ := hi
  · exact .inr (answeredOnly_respond hs [])
  · exact execRegRead_answer hs r
  · exact execTblLookup_answer hs a b
  · exact execTblContains_answer hs a b c
  · exact execTblRead_answer hs a b
  · exact serSend_answer hs d p
  · exact serSend_answer hs _ p

end

/-- The transmit sequence and the response (R133, R134). -/
def transmitted (pipe : PhysAddress) (frame : List Byte) (ack : Bool) : List Output :=
  [Output.stopListening, Output.writeFrame pipe frame ack, Output.startListening, Output.response [0x00#8]]

/-- The radio send run from `s` opens a channel for the pair it adds to RP, or neither, and then transmits. -/
def Transmits (s : State) (r : Result) : Prop :=
  ∃ t opened pipe frame ack, r = .next t ∧ t.out = s.out ++ opened ++ transmitted pipe frame ack ∧
    ((t.rp = s.rp ∧ opened = []) ∨
      ∃ sl : Slot, t.rp = s.rp ++ [sl] ∧ opened = [Output.openChannel (2 + s.rp.length) (physAddr s.cfg sl.phy)])

theorem exists_pipeOf (s : State) (d : Byte) : ∃ pipe ack, PipeOf s d pipe ack := by
  cases hlookup : tblLookup s.dc d with
  | some q => exact ⟨_, _, .inl ⟨q, hlookup, rfl, rfl⟩⟩
  | none => exact ⟨_, _, .inr ⟨hlookup, rfl, rfl⟩⟩

theorem radSend_answer {s : State} (hs : s.Ready) (d : Byte) (p : List Byte) :
    Refused s (radSend d p s) ∨ Transmits s (radSend d p s) := by
  by_cases hp : p.length ≤ s.cfg.radMax
  · by_cases hd : d = BCAST_MAC
    · subst hd
      exact .inr ⟨_, [], _, _, _, radSend_broadcast_ready hs hp, by rw [List.append_nil]; rfl, .inl ⟨rfl, rfl⟩⟩
    · obtain ⟨pipe, ack, hpipe⟩ := exists_pipeOf s d
      obtain ⟨t, opened, reply, hsend, hout, hchosen⟩ := radSendCompletesForEveryDraw s d p pipe ack hs hd hp hpipe
      refine .inr ⟨t, opened, pipe, _, ack, hsend, hout, ?_⟩
      obtain ⟨hrp, hopened, -⟩ | ⟨-, -, -, -, hrp, hopened⟩ := hchosen
      · exact .inl ⟨hrp, hopened⟩
      · exact .inr ⟨_, hrp, hopened⟩
  · exact .inl ⟨.ELEN, radSend_beyond_ready hs (Nat.lt_of_not_le hp) d⟩

/-- An inbound event emits nothing, a delivery, or the hook event. -/
def EmitsInbound (s t : State) : Prop :=
  t.out = s.out ∨ (∃ p ifid src, t.out = s.out ++ [Output.deliver p ifid src]) ∨ t.out = s.out ++ [Output.serCrcFail]

theorem emitsInbound_frameOutput {s t : State} {x : Byte} (h : t.out = s.out ++ [frameOutput x s]) : EmitsInbound s t := by
  unfold frameOutput at h
  dsimp only at h
  split at h
  · exact .inr (.inl ⟨_, _, _, h⟩)
  · exact .inr (.inr h)

theorem collectByte_emitsInbound {s t : State} (hs : s.Ready) {x : Byte} (h : collectByte x s = .next t) :
    EmitsInbound s t := by
  obtain ⟨-, rfl⟩ | ⟨-, -, -, rfl⟩ | ⟨-, -, -, rfl⟩ | ⟨-, -, -, -, rfl⟩ | ⟨-, -, -, -, hemit⟩ := collectByte_next h
  · exact .inl rfl
  · exact .inl rfl
  · exact .inl rfl
  · exact .inl rfl
  · rw [emit_ready hs] at hemit
    cases hemit
    exact emitsInbound_frameOutput (x := x) rfl

theorem learn_out (src reply : Byte) (s : State) : (learn src reply s).out = s.out := by
  obtain h | ⟨-, -, h⟩ := learn_cases src reply s <;> rw [h]

theorem execRadRx_emitsInbound {s t : State} (hs : s.Ready) {f : List Byte} (h : execRadRx f s = .next t) :
    EmitsInbound s t := by
  unfold execRadRx at h
  split at h
  · split at h
    · cases h; exact .inl rfl
    · rw [emit_ready (hs.learn _ _)] at h
      cases h
      exact .inr (.inl ⟨_, _, _, by rw [State.withOut_out, learn_out]⟩)
  · cases h; exact .inl rfl

/-! ### The response of a command -/

theorem responsesOf_append (a b : List Output) : responsesOf (a ++ b) = responsesOf a ++ responsesOf b :=
  List.filterMap_append

theorem responsesOf_writeByte (ws : List Byte) : responsesOf (ws.map Output.writeByte) = [] := by
  rw [responsesOf, List.filterMap_map, List.filterMap_eq_nil_iff]
  exact fun _ _ => rfl

/-- The command run from `s` ends with an `OK` response, after outputs that are no response. -/
def EndsOk (s : State) (r : Result) : Prop :=
  ∃ t os bs, r = .next t ∧ t.out = s.out ++ os ++ [Output.response (0x00#8 :: bs)] ∧ responsesOf os = []

theorem AnsweredOnly.endsOk {s : State} {r : Result} (h : AnsweredOnly s r) : EndsOk s r := by
  obtain ⟨ws, bs, rfl⟩ := h
  exact ⟨_, _, bs, rfl, (List.append_assoc _ _ _).symm, responsesOf_writeByte ws⟩

theorem Transmits.endsOk {s : State} {r : Result} (h : Transmits s r) : EndsOk s r := by
  obtain ⟨t, opened, pipe, frame, ack, hr, hout, hopened⟩ := h
  refine ⟨t, opened ++ [Output.stopListening, Output.writeFrame pipe frame ack, Output.startListening], [], hr, ?_, ?_⟩
  · rw [hout, transmitted]
    simp only [List.append_assoc, List.cons_append, List.nil_append]
  · obtain ⟨-, rfl⟩ | ⟨sl, -, rfl⟩ := hopened
    · rfl
    · rfl

theorem endsOk_execRadReinit {s : State} (hs : s.Ready) : EndsOk s (execRadReinit s) :=
  ⟨_, [Output.openChannel 0 (physAddr s.cfg BCAST_PHY), Output.openChannel 1 (physAddr s.cfg s.nextDraw),
      Output.startListening], [], execRadReinit_ready hs, by simp [State.radioCleared], rfl⟩

theorem endsOk_execSerRedraw {s : State} (hs : s.Ready) : EndsOk s (execSerRedraw s) :=
  ⟨_, [], [], execSerRedraw_ready hs, by simp, rfl⟩

theorem command_answer {i : Instr} {s : State} (hs : s.Ready) (hi : isCommand i = true) :
    Refused s (exec i s) ∨ EndsOk s (exec i s) := by
  obtain hread | ⟨d, p, rfl⟩ | ⟨p, rfl⟩ | rfl | rfl | rfl | rfl | ⟨b, rfl⟩ | ⟨f, rfl⟩ := instr_classes i
  · exact (readsOnly_answer hs hread).imp_right AnsweredOnly.endsOk
  · exact (radSend_answer hs d p).imp_right Transmits.endsOk
  · exact (radSend_answer hs _ p).imp_right Transmits.endsOk
  · exact .inr (endsOk_execRadReinit hs)
  · exact .inr (endsOk_execSerRedraw hs)
  all_goals cases hi

theorem inbound_emits {i : Instr} {s t : State} (hs : s.Ready) (hi : isCommand i = false) (h : exec i s = .next t) :
    EmitsInbound s t := by
  cases i with
  | serRxPreamble => cases h; exact .inl rfl
  | serRxEscape => cases h; exact .inl rfl
  | serRxData b => exact collectByte_emitsInbound (s := { s with sdEsc := false }) (hs.with_sdEsc false) h
  | radRx f => exact execRadRx_emitsInbound hs h
  | _ => cases hi

theorem EmitsInbound.responsesOf_eq {s t : State} (h : EmitsInbound s t) : responsesOf t.out = responsesOf s.out := by
  obtain h | ⟨p, ifid, src, h⟩ | h := h
  · rw [h]
  · rw [h, responsesOf_append]; exact List.append_nil _
  · rw [h, responsesOf_append]; exact List.append_nil _

/-- Settles O47: a command is refused or ends with `OK`, and an inbound event emits no response. -/
theorem oneResponsePerCommand : Obligations.OneResponsePerCommand := by
  refine fun i s t hs h => ⟨fun hi => ?_, fun hi => (inbound_emits hs hi h).responsesOf_eq⟩
  obtain ⟨st, hr⟩ | ⟨u, os, bs, hr, hout, hos⟩ := command_answer hs hi
  · cases hr.symm.trans h
    exact ⟨[], _, by rw [State.withOut_out, List.append_nil], rfl⟩
  · cases hr.symm.trans h
    exact ⟨os, _, hout, hos⟩

/-! ### Commands that fail -/

theorem Refused.effect {s t : State} {os : List Output} {code : Byte} {rest : List Byte} (h : Refused s (.next t))
    (hout : t.out = os ++ [Output.response (code :: rest)]) : t = s.withOut [Output.response [code]] := by
  obtain ⟨st, hr⟩ := h
  cases hr
  obtain ⟨-, hlast⟩ := List.append_inj' hout rfl
  cases hlast
  rfl

theorem EndsOk.code_eq {s t : State} {os : List Output} {code : Byte} {rest : List Byte} (h : EndsOk s (.next t))
    (hout : t.out = os ++ [Output.response (code :: rest)]) : code = 0x00#8 := by
  obtain ⟨u, os', bs, hr, hout', -⟩ := h
  cases hr
  obtain ⟨-, hlast⟩ := List.append_inj' (hout'.symm.trans hout) rfl
  cases hlast
  rfl

/-- What a transaction decodes to is a command. -/
theorem isCommand_of_encode {i : Instr} {tr : Transaction} (h : encode i = .command tr) : isCommand i = true := by
  cases i with
  | serRxPreamble | serRxEscape | serRxData | radRx => cases h
  | _ => rfl

/-- Settles O48: a status other than `OK` means a refusal, and a refusal is its response alone. -/
theorem failedCommandsHaveNoEffect : Obligations.FailedCommandsHaveNoEffect := by
  intro s t os code rest hs hout hcode
  have hcommand : ∀ i, isCommand i = true → exec i s = .next t → t = s.withOut [Output.response [code]] := by
    intro i hi h
    obtain hrefused | hok := command_answer hs hi
    · rw [h] at hrefused
      exact hrefused.effect hout
    · rw [h] at hok
      exact absurd (hok.code_eq hout) hcode
  refine ⟨hcommand, fun tr h => ?_⟩
  obtain ⟨i, hdecode, heq⟩ | ⟨st, -, heq⟩ := handleEvent_cases (.command tr) s
  · obtain ⟨-, -, hencode⟩ := encode_of_decodeCommand hdecode
    exact hcommand i (isCommand_of_encode hencode) (heq.symm.trans h)
  · have hrefused := refused_raiseStatus hs st
    rw [heq.symm.trans h] at hrefused
    exact hrefused.effect hout

end Sys2Proof.Machine
end

section
/-!
PROOF. The receive channels (spec/30_encoding.md R83, spec/41_radio_dispatcher.md R121, R130). A reset planned for the unit of work is still
there after it; without one the unit runs in full, and it opens a channel for exactly the address it writes.
-/
namespace Sys2Proof.Machine

/-! ### The last opening of a channel -/

/-- The address an output opens a channel with. -/
def openedBy (idx : Nat) : Output → Option PhysAddress
  | .openChannel j a => if j = idx then some a else none
  | _ => none

theorem lastOpened_cons (idx : Nat) (o : Output) (os : List Output) :
    lastOpened idx (o :: os) = (lastOpened idx os).or (openedBy idx o) := by
  cases hos : lastOpened idx os with
  | some a => simp [lastOpened, hos]
  | none => cases o <;> simp [lastOpened, hos, openedBy]

theorem lastOpened_append (idx : Nat) (a b : List Output) :
    lastOpened idx (a ++ b) = (lastOpened idx b).or (lastOpened idx a) := by
  induction a with
  | nil => exact Option.or_none.symm
  | cons o a ih => rw [List.cons_append, lastOpened_cons, lastOpened_cons, ih, Option.or_assoc]

/-- The output opens no channel. -/
def opensNone : Output → Bool
  | .openChannel _ _ => false
  | _ => true

theorem openedBy_eq_none {o : Output} (h : opensNone o = true) (idx : Nat) : openedBy idx o = none := by
  cases o with
  | openChannel => cases h
  | _ => rfl

theorem lastOpened_eq_none {os : List Output} (h : os.all opensNone = true) (idx : Nat) : lastOpened idx os = none := by
  induction os with
  | nil => rfl
  | cons o os ih =>
    rw [List.all_cons, Bool.and_eq_true] at h
    rw [lastOpened_cons, ih h.2, openedBy_eq_none h.1, Option.or_none]

theorem lastOpened_append_none {os : List Output} (h : os.all opensNone = true) (idx : Nat) (a : List Output) :
    lastOpened idx (a ++ os) = lastOpened idx a := by
  rw [lastOpened_append, lastOpened_eq_none h, Option.none_or]

theorem lastOpened_append_same (idx : Nat) (a : List Output) (addr : PhysAddress) :
    lastOpened idx (a ++ [Output.openChannel idx addr]) = some addr := by
  rw [lastOpened_append]
  simp [lastOpened]

theorem lastOpened_append_other {idx j : Nat} (h : j ≠ idx) (a : List Output) (addr : PhysAddress) :
    lastOpened idx (a ++ [Output.openChannel j addr]) = lastOpened idx a := by
  rw [lastOpened_append]
  simp [lastOpened, h]

/-! ### What keeps the channels bound -/

/-- More outputs that open no channel, and nothing else that R83 reads. -/
theorem State.ChannelsBound.of_opensNone {s t : State} (h : s.ChannelsBound) (hcfg : t.cfg = s.cfg) (hself : t.radSelf = s.radSelf)
    (hrp : t.rp = s.rp) {os : List Output} (hout : t.out = s.out ++ os) (hos : os.all opensNone = true) : t.ChannelsBound where
  broadcast := by rw [hout, lastOpened_append_none hos, hcfg, h.broadcast]
  self := by rw [hout, lastOpened_append_none hos, hcfg, hself, h.self]
  reply k sl hsl := by
    rw [hrp] at hsl
    rw [hout, lastOpened_append_none hos, hcfg, h.reply k sl hsl]

/-- A new pair in RP with its channel opened. -/
theorem State.ChannelsBound.of_opened {s t : State} (h : s.ChannelsBound) (hcfg : t.cfg = s.cfg) (hself : t.radSelf = s.radSelf)
    {sl : Slot} (hrp : t.rp = s.rp ++ [sl])
    (hout : t.out = s.out ++ [Output.openChannel (2 + s.rp.length) (physAddr s.cfg sl.phy)]) : t.ChannelsBound where
  broadcast := by rw [hout, lastOpened_append_other (by omega), hcfg, h.broadcast]
  self := by rw [hout, lastOpened_append_other (by omega), hcfg, hself, h.self]
  reply k sl' hsl := by
    rw [hout, hcfg]
    rw [hrp] at hsl
    obtain hk | hk := Nat.lt_or_ge k s.rp.length
    · rw [List.getElem?_append_left hk] at hsl
      rw [lastOpened_append_other (by omega), h.reply k sl' hsl]
    · rw [List.getElem?_append_right hk, List.getElem?_singleton] at hsl
      split at hsl
      · rename_i hlast
        obtain rfl : k = s.rp.length := by omega
        cases hsl
        exact lastOpened_append_same _ _ _
      · cases hsl

/-- The outputs of `RadioInit` bind the channels of a machine with an empty RP. -/
theorem channelsBound_of_radioInit {t : State} {out rest : List Output} (hrp : t.rp = [])
    (hout : t.out = out ++ ([Output.openChannel 0 (physAddr t.cfg BCAST_PHY),
      Output.openChannel 1 (physAddr t.cfg t.radSelf), Output.startListening] ++ rest)) (hrest : rest.all opensNone = true) : t.ChannelsBound where
  broadcast := by
    rw [hout, lastOpened_append, lastOpened_append_none hrest]
    simp [lastOpened]
  self := by
    rw [hout, lastOpened_append, lastOpened_append_none hrest]
    simp [lastOpened]
  reply k sl hsl := by
    rw [hrp] at hsl
    cases hsl

/-! ### Instructions before collaborators that accept -/

theorem Refused.channelsBound {s t : State} (h : Refused s (.next t)) (hb : s.ChannelsBound) : t.ChannelsBound := by
  obtain ⟨st, hr⟩ := h
  cases hr
  exact hb.of_opensNone rfl rfl rfl rfl rfl

theorem AnsweredOnly.channelsBound {s t : State} (h : AnsweredOnly s (.next t)) (hb : s.ChannelsBound) : t.ChannelsBound := by
  obtain ⟨ws, bs, hr⟩ := h
  cases hr
  exact hb.of_opensNone rfl rfl rfl rfl (by simp [opensNone])

theorem Transmits.channelsBound {s t : State} (h : Transmits s (.next t)) (hcfg : t.cfg = s.cfg) (hself : t.radSelf = s.radSelf)
    (hb : s.ChannelsBound) : t.ChannelsBound := by
  obtain ⟨u, opened, pipe, frame, ack, hr, hout, hopened⟩ := h
  cases hr
  have hopen : ({ t with out := s.out ++ opened } : State).ChannelsBound := by
    obtain ⟨hrp, rfl⟩ | ⟨sl, hrp, rfl⟩ := hopened
    · exact hb.of_opensNone hcfg hself hrp rfl rfl
    · exact hb.of_opened hcfg hself hrp rfl
  exact hopen.of_opensNone rfl rfl rfl hout rfl

theorem EmitsInbound.channelsBound {s t : State} (h : EmitsInbound s t) (hcfg : t.cfg = s.cfg) (hself : t.radSelf = s.radSelf)
    (hrp : t.rp = s.rp) (hb : s.ChannelsBound) : t.ChannelsBound := by
  obtain hout | ⟨p, ifid, src, hout⟩ | hout := h
  · exact hb.of_opensNone hcfg hself hrp (hout.trans (List.append_nil _).symm) rfl
  · exact hb.of_opensNone hcfg hself hrp hout rfl
  · exact hb.of_opensNone hcfg hself hrp hout rfl

theorem exec_channelsBound {i : Instr} {s t : State} (hs : s.Ready) (hb : s.ChannelsBound) (h : exec i s = .next t) :
    t.ChannelsBound := by
  have hcfg := (execKeepsParametersInputsAndHistory i s t h).1
  have hself := (selfAddressesChangeOnlyByRedraw i s t h).1
  have hsend : ∀ {d p}, radSend d p s = .next t → t.ChannelsBound := fun {d p} h => by
    obtain hr | hr := radSend_answer hs d p
    · exact (h ▸ hr).channelsBound hb
    · exact (h ▸ hr).channelsBound hcfg (radSend_frame h).2.1 hb
  obtain hi | ⟨d, p, rfl⟩ | ⟨p, rfl⟩ | rfl | rfl | rfl | rfl | ⟨b, rfl⟩ | ⟨f, rfl⟩ := instr_classes i
  · obtain hr | hr := readsOnly_answer hs hi
    · exact (h ▸ hr).channelsBound hb
    · exact (h ▸ hr).channelsBound hb
  · exact hsend h
  · exact hsend h
  · cases (execRadReinit_ready hs).symm.trans h
    exact channelsBound_of_radioInit (out := s.out) (rest := [Output.response [0x00#8]]) rfl
      (by simp [State.radioCleared]) rfl
  · obtain ⟨-, hrad, -, hrp⟩ := execSerRedraw_frame h
    cases (execSerRedraw_ready hs).symm.trans h
    exact hb.of_opensNone hcfg hrad hrp (os := [Output.response [0x00#8]]) (by simp) rfl
  · cases h
    exact hb.of_opensNone rfl rfl rfl (List.append_nil _).symm rfl
  · cases h
    exact hb.of_opensNone rfl rfl rfl (List.append_nil _).symm rfl
  · exact (inbound_emits hs rfl h).channelsBound hcfg (hself nofun) (execSerRxData_frame h).addresses.rp hb
  · obtain ⟨-, hrad, -, hrp, -⟩ := execRadRx_frame h
    exact (inbound_emits hs rfl h).channelsBound hcfg hrad hrp hb

theorem handleEvent_channelsBound {e : Event} {s t : State} (hs : s.Ready) (hb : s.ChannelsBound)
    (h : handleEvent e s = .next t) : t.ChannelsBound := by
  obtain ⟨i, -, heq⟩ | ⟨st, -, heq⟩ := handleEvent_cases e s
  · exact exec_channelsBound hs hb (heq.symm.trans h)
  · have hrefused := refused_raiseStatus hs st
    rw [heq.symm.trans h] at hrefused
    exact hrefused.channelsBound hb

/-! ### Steps -/

theorem resetDone_channelsBound (s : State) : s.resetDone.ChannelsBound :=
  channelsBound_of_radioInit (out := s.out) (rest := [])
    (by simp [State.resetDone, State.serialCleared, State.radioCleared])
    (by simp [State.resetDone, State.serialCleared, State.radioCleared]) rfl

/-- A reset that falls in a reset sequence is taken after it; without one the sequence binds the channels (R230, R232). -/
theorem resetSequence_channelsBound {s t : State} (ha : s.accepts = Accepts.unlimited) (h : resetSequence s = .next t) :
    t.resetTaken = true ∨ t.ChannelsBound := by
  cases hreset : s.resets.head?.join with
  | none =>
    cases (resetSequence_ready (State.resetBegun_ready ha hreset)).symm.trans h
    exact .inr (resetDone_channelsBound s)
  | some n =>
    have hwithin : ResetWithin (s.out.length + n) t :=
      resetSequence_keeps_outer (outer_resetWithin _) ⟨n, hreset, Nat.le_refl _⟩ h
    exact .inl hwithin.resetTaken

/-- A reset that falls in an event is taken after it; without one the event keeps the channels bound (R230). -/
theorem handleEvent_resetTaken_or_channelsBound {e : Event} {s t : State} (ha : s.accepts = Accepts.unlimited)
    (hstalled : s.stalled = none) (hb : s.ChannelsBound) (h : handleEvent e s = .next t) :
    t.resetTaken = true ∨ t.ChannelsBound := by
  cases hreset : s.resetIn with
  | none => exact .inr (handleEvent_channelsBound ⟨ha, hreset, hstalled⟩ hb h)
  | some n =>
    have hwithin : ResetWithin (s.out.length + n) t :=
      handleEvent_keeps_outer (outer_resetWithin _) ⟨n, hreset, Nat.le_refl _⟩ h
    exact .inl hwithin.resetTaken

theorem takeEvent_keeps_channelsBound {s s' : State} {e : Event} (hb : s.ChannelsBound) (h : takeEvent s = some (e, s')) :
    s'.begun.ChannelsBound := by
  rw [takeEvent_state h]
  exact { hb with }

/-- Settles O57: a step is a reset sequence, nothing, or an event, and a reset in either of the two is taken at the next step. -/
theorem stepKeepsChannelsBound : Obligations.StepKeepsChannelsBound := by
  intro s t ha hstalled hbound h
  obtain ⟨-, hstep⟩ | ⟨htaken, hstep⟩ | ⟨htaken, -, e, s', htake, hstep⟩ := step_cases s
  · exact resetSequence_channelsBound ha (hstep.symm.trans h)
  · cases hstep.symm.trans h
    exact hbound
  · have hb : s.ChannelsBound := hbound.resolve_left (by simp [htaken])
    have hstate := takeEvent_state htake
    exact handleEvent_resetTaken_or_channelsBound (s := s'.begun) (by rw [hstate]; exact ha) (by rw [hstate]; exact hstalled)
      (takeEvent_keeps_channelsBound hb htake) (hstep.symm.trans h)

end Sys2Proof.Machine
end

section
/-!
PROOF. The frame buffer as the rest of the machine sees it (spec/93_implementation_defined.md U3, spec/10_state.md R30). Only a data byte
reads the buffer, and only at indices the current frame has written; every other instruction runs alike over any buffer.
-/
namespace Sys2Proof.Machine

/-! ### Meanings that do not read the buffer -/

/-- The machine with another frame buffer. -/
def State.withBuf (s : State) (m : Buffer) : State := { s with sdBuf := m }

/-- Where `r` is a next state, `r'` is the same one with the buffer `m`. -/
def SameOver (m : Buffer) (r r' : Result) : Prop := ∀ t, r = .next t → r' = .next (t.withBuf m)

/-- A meaning that does the same over any frame buffer, and leaves it as it is. -/
def IgnoresBuffer (k : State → Result) : Prop := ∀ s m, SameOver m (k s) (k (s.withBuf m))

theorem SameOver.ite {m : Buffer} {c : Prop} [Decidable c] {r₁ r₂ r₁' r₂' : Result} (h₁ : c → SameOver m r₁ r₁')
    (h₂ : ¬c → SameOver m r₂ r₂') : SameOver m (if c then r₁ else r₂) (if c then r₁' else r₂') := by
  by_cases hc : c
  · simpa only [if_pos hc] using h₁ hc
  · simpa only [if_neg hc] using h₂ hc

theorem ignoresBuffer_next : IgnoresBuffer .next := fun s m t h => by
  cases h
  rfl

theorem ignoresBuffer_emit {k : State → Result} (hk : IgnoresBuffer k) (o : Output) : IgnoresBuffer (emit o · k) := fun s m =>
  .ite (fun _ => ignoresBuffer_next s m) fun _ =>
    .ite (fun _ => ignoresBuffer_next (s.waitFor (outputPort o)) m) fun _ => hk (s.emitted o) m

theorem ignoresBuffer_emitAll {k : State → Result} (hk : IgnoresBuffer k) (os : List Output) :
    IgnoresBuffer (emitAll os · k) := by
  induction os with
  | nil => exact hk
  | cons o os ih => exact ignoresBuffer_emit ih o

theorem withBuf_nextDraw (s : State) (m : Buffer) : (s.withBuf m).nextDraw = s.nextDraw := rfl

theorem withBuf_drawn (s : State) (m : Buffer) : (s.withBuf m).drawn = s.drawn.withBuf m := by
  unfold State.drawn
  cases h : s.draws with
  | nil => simp only [State.withBuf, h]
  | cons d ds => simp only [State.withBuf, h]

theorem ignoresBuffer_draw {k : Byte → State → Result} (hk : ∀ d, IgnoresBuffer (k d)) : IgnoresBuffer (draw · k) := by
  intro s m
  have hrest := hk s.nextDraw s.drawn m
  rw [← withBuf_drawn, ← withBuf_nextDraw s m] at hrest
  exact .ite (fun _ => ignoresBuffer_next s m) fun _ =>
    .ite (fun _ => ignoresBuffer_next (s.waitFor .random) m) fun _ => hrest

theorem ignoresBuffer_respond (bs : List Byte) : IgnoresBuffer (respond bs) := ignoresBuffer_emit ignoresBuffer_next _

theorem ignoresBuffer_raiseStatus (st : Status) : IgnoresBuffer (raiseStatus st) := ignoresBuffer_emit ignoresBuffer_next _

/-! ### The read commands and the serial sends -/

theorem ignoresBuffer_execRegRead (r : Byte) : IgnoresBuffer (execRegRead r) := by
  intro s m
  have hsame : readReg r (s.withBuf m) = readReg r s := rfl
  unfold execRegRead
  rw [hsame]
  cases readReg r s with
  | some v => exact ignoresBuffer_respond _ s m
  | none => exact ignoresBuffer_raiseStatus _ s m

theorem withBuf_table (s : State) (m : Buffer) (sel : TableSel) : (s.withBuf m).table sel = s.table sel := by
  cases sel with
  | DC => rfl
  | RP => rfl

theorem ignoresBuffer_execTblLookup (a v : Byte) : IgnoresBuffer (execTblLookup a v) := by
  intro s m
  unfold execTblLookup
  cases tableOperand a with
  | none => exact ignoresBuffer_raiseStatus _ s m
  | some sel =>
    simp only [withBuf_table]
    exact ignoresBuffer_respond _ s m

theorem ignoresBuffer_execTblContains (a role v : Byte) : IgnoresBuffer (execTblContains a role v) := by
  intro s m
  unfold execTblContains
  split
  · simp only [withBuf_table]
    exact ignoresBuffer_respond _ s m
  · exact ignoresBuffer_raiseStatus _ s m

theorem ignoresBuffer_execTblRead (a k : Byte) : IgnoresBuffer (execTblRead a k) := by
  intro s m
  unfold execTblRead
  cases tableOperand a with
  | none => exact ignoresBuffer_raiseStatus _ s m
  | some sel =>
    simp only [withBuf_table]
    exact .ite (fun _ => ignoresBuffer_raiseStatus _ s m) fun _ => ignoresBuffer_respond _ s m

theorem ignoresBuffer_serSend (d : Byte) (p : List Byte) : IgnoresBuffer (serSend d p) := fun s m =>
  .ite (fun _ => ignoresBuffer_raiseStatus _ s m) fun _ => ignoresBuffer_emitAll (ignoresBuffer_respond []) _ s m

theorem ignoresBuffer_of_readsOnly {i : Instr} (hi : ReadsOnly i) : IgnoresBuffer (exec i) := by
  obtain rfl | ⟨r, rfl⟩ | ⟨a, b, rfl⟩ | ⟨a, b, c, rfl⟩ | ⟨a, b, rfl⟩ | ⟨d, p, rfl⟩ | ⟨p, rfl⟩ := hi
  · exact ignoresBuffer_respond []
  · exact ignoresBuffer_execRegRead r
  · exact ignoresBuffer_execTblLookup a b
  · exact ignoresBuffer_execTblContains a b c
  · exact ignoresBuffer_execTblRead a b
  · exact ignoresBuffer_serSend d p
  · exact ignoresBuffer_serSend _ p

/-! ### The instructions that draw, and inbound frames -/

theorem ignoresBuffer_radioInit {k : State → Result} (hk : IgnoresBuffer k) : IgnoresBuffer (radioInit · k) :=
  ignoresBuffer_draw fun d s m =>
    ignoresBuffer_emitAll hk _ { s with radSelf := d, dc := tableReset, rp := tableReset } m

theorem ignoresBuffer_execSerRedraw : IgnoresBuffer execSerRedraw :=
  ignoresBuffer_draw fun d s m => ignoresBuffer_respond [] { s with serSelf := d } m

theorem ignoresBuffer_allocPhy {k : Option Byte → State → Result} (hk : ∀ c, IgnoresBuffer (k c)) (n : Nat) :
    IgnoresBuffer (allocPhy n · k) := by
  induction n with
  | zero => exact hk none
  | succ n ih => exact ignoresBuffer_draw fun c s m => .ite (fun _ => hk (some c) s m) fun _ => ih s m

theorem ignoresBuffer_replyAllocated {k : Byte → State → Result} (hk : ∀ reply, IgnoresBuffer (k reply)) (d : Byte)
    (c : Option Byte) : IgnoresBuffer (replyAllocated d k c) := by
  intro s m
  cases c with
  | none => exact hk s.radSelf s m
  | some c => exact ignoresBuffer_emit (hk c) _ { s with rp := (tblTryInsert s.cfg.rpCap s.rp d c).2 } m

theorem ignoresBuffer_radReply {k : Byte → State → Result} (hk : ∀ reply, IgnoresBuffer (k reply)) (d : Byte) :
    IgnoresBuffer (radReply d · k) := by
  intro s m
  refine .ite (fun _ => hk s.radSelf s m) fun _ => ?_
  have hrp : (s.withBuf m).rp = s.rp := rfl
  rw [hrp]
  cases tblLookup s.rp d with
  | some reply => exact hk reply s m
  | none =>
    exact .ite (fun _ => hk s.radSelf s m) fun _ =>
      ignoresBuffer_allocPhy (ignoresBuffer_replyAllocated hk d) s.cfg.allocTries s m

theorem ignoresBuffer_radSend (d : Byte) (p : List Byte) : IgnoresBuffer (radSend d p) := fun s m =>
  .ite (fun _ => ignoresBuffer_raiseStatus _ s m) fun _ =>
    ignoresBuffer_radReply
      (fun reply s' m' => ignoresBuffer_emitAll (ignoresBuffer_respond [])
        [Output.stopListening, Output.writeFrame (radPipe d s).1 (s'.radSelf :: reply :: p) (radPipe d s).2,
          Output.startListening] s' m')
      d s m

theorem learn_withBuf (src reply : Byte) (s : State) (m : Buffer) :
    learn src reply (s.withBuf m) = (learn src reply s).withBuf m := by
  by_cases hne : src = reply
  · subst hne
    rw [learn_same, learn_same]
  · rw [learn_of_ne hne, learn_of_ne hne]
    rfl

theorem ignoresBuffer_execRadRx (f : List Byte) : IgnoresBuffer (execRadRx f) := by
  intro s m
  unfold execRadRx
  split
  · refine .ite (fun _ => ignoresBuffer_next s m) fun _ => ?_
    rw [learn_withBuf]
    exact ignoresBuffer_emit ignoresBuffer_next _ (learn _ _ s) m
  · exact ignoresBuffer_next s m

/-! ### Buffers that agree where the frame has written -/

/-- The buffer `m` agrees with that of `s` at every index the current frame has written. -/
def AgreesOnWritten (s : State) (m : Buffer) : Prop := ∀ j, s.written j → bufGet m j = bufGet s.sdBuf j

/-- The outcome `r` is `t` over a buffer that agrees with that of `t`. -/
def EndsAlike (t : State) (r : Result) : Prop := ∃ m', Buffer.wf m' ∧ r = .next (t.withBuf m') ∧ AgreesOnWritten t m'

/-- An instruction that neither reads nor writes the decoder leaves the buffers agreeing. -/
theorem endsAlike_of_ignoresBuffer {k : State → Result} {s t : State} {m : Buffer} (hk : IgnoresBuffer k) (hm : Buffer.wf m)
    (hagree : AgreesOnWritten s m) (hdec : SameDecoder s t) (h : k s = .next t) : EndsAlike t (k (s.withBuf m)) := by
  refine ⟨m, hm, hk s m t h, fun j hj => ?_⟩
  have hwritten : s.written j := by
    rw [State.written, hdec.sdPos, hdec.sdBuf] at hj
    exact hj
  rw [hagree j hwritten, hdec.sdBuf]

/-! ### The data byte (R157 to R162) -/

theorem written_of_header {s : State} {j : Nat} (hj : j ≤ 2) (hpos : j < s.sdPos.toNat) : s.written j := ⟨hpos, .inl hj⟩

section
variable {s : State} {m : Buffer} (hagree : AgreesOnWritten s m)
include hagree

/-- Past the header the filter reads written bytes. -/
theorem frameTurnedAway_withBuf (hpos : 2 < s.sdPos.toNat) : frameTurnedAway (s.withBuf m) = frameTurnedAway s := by
  have hlen : bufGet m 0 = bufGet s.sdBuf 0 := hagree 0 (written_of_header (by omega) (by omega))
  have hdst : bufGet m 2 = bufGet s.sdBuf 2 := hagree 2 (written_of_header (by omega) hpos)
  simp only [frameTurnedAway, filterDrops, State.withBuf, hlen, hdst]

/-- At the CRC low byte every byte of the record is written. -/
theorem bufSlice_agrees {i n : Nat} (hin : i + n ≤ (bufGet s.sdBuf 0).toNat + 3)
    (hpos : s.sdPos.toNat = (bufGet s.sdBuf 0).toNat + 4) : bufSlice m i n = bufSlice s.sdBuf i n := by
  refine List.map_congr_left fun j hj => ?_
  rw [List.mem_range'_1] at hj
  exact hagree j ⟨by omega, .inr (by omega)⟩

theorem frameOutput_withBuf (hpos : s.sdPos.toNat = (bufGet s.sdBuf 0).toNat + 4) (x : Byte) :
    frameOutput x (s.withBuf m) = frameOutput x s := by
  have hlen : bufGet m 0 = bufGet s.sdBuf 0 := hagree 0 (written_of_header (by omega) (by omega))
  have hsrc : bufGet m 1 = bufGet s.sdBuf 1 := hagree 1 (written_of_header (by omega) (by omega))
  have hrecord := bufSlice_agrees hagree (i := 0) (n := (bufGet s.sdBuf 0).toNat + 3) (by omega) hpos
  have hpayload := bufSlice_agrees hagree (i := 3) (n := (bufGet s.sdBuf 0).toNat) (by omega) hpos
  simp only [frameOutput, State.withBuf, hlen, hsrc, hrecord, hpayload]

end

/-- The decoder of `t` is that of `s` with the position moved on at most, past no byte of the frame. -/
theorem endsAlike_of_position {s t : State} {m : Buffer} {r : Result} (hm : Buffer.wf m) (hagree : AgreesOnWritten s m)
    (hbuf : t.sdBuf = s.sdBuf)
    (hpos : t.sdPos = s.sdPos ∨ (t.sdPos = s.sdPos + 1#16 ∧ (bufGet s.sdBuf 0).toNat + 3 ≤ s.sdPos.toNat))
    (h : r = .next (t.withBuf m)) : EndsAlike t r := by
  refine ⟨m, hm, h, fun j hj => ?_⟩
  obtain ⟨hlt, hin⟩ := hj
  rw [hbuf] at hin
  have hwritten : s.written j := by
    obtain heq | ⟨heq, hbeyond⟩ := hpos
    · rw [heq] at hlt
      exact ⟨hlt, hin⟩
    · have hnext := nextPos_toNat_le s
      rw [heq] at hlt
      exact ⟨by simp only [nextPos] at hnext; omega, hin⟩
  rw [hagree j hwritten, hbuf]

/-- A byte stored at the position is stored alike in both buffers. -/
theorem endsAlike_of_stored {s : State} {m : Buffer} (hs : Buffer.wf s.sdBuf) (hm : Buffer.wf m)
    (hagree : AgreesOnWritten s m) (x : Byte) :
    EndsAlike (nextPos { s with sdBuf := bufSet s.sdBuf s.sdPos.toNat x })
      (.next (nextPos { s.withBuf m with sdBuf := bufSet m s.sdPos.toNat x })) := by
  refine ⟨bufSet m s.sdPos.toNat x, bufSet_wf hm _ _, rfl, fun j hj => ?_⟩
  have hbuf : (nextPos { s with sdBuf := bufSet s.sdBuf s.sdPos.toNat x }).sdBuf = bufSet s.sdBuf s.sdPos.toNat x := rfl
  obtain ⟨hlt, hin⟩ := hj
  rw [hbuf] at hin ⊢
  rw [bufGet_bufSet hm, bufGet_bufSet hs]
  by_cases hj : j = s.sdPos.toNat
  · rw [if_pos hj, if_pos hj]
  · rw [if_neg hj, if_neg hj]
    have hnext := nextPos_toNat_le s
    have hlt' : j < s.sdPos.toNat := by
      have : j < (nextPos s).sdPos.toNat := hlt
      omega
    refine hagree j ⟨hlt', ?_⟩
    by_cases hhead : j ≤ 2
    · exact .inl hhead
    · rw [bufGet_bufSet_other (by omega)] at hin
      exact hin

/-- Past the header, with the two reads of the filter in range, what remains is the case split of R158 to R161. Here the
range comes from the run itself: no parameter is assumed to be in range. -/
theorem collectByte_body_inside {s : State} {x : Byte} (hst : s.sdState = .collecting) (hpos : 2 < s.sdPos.toNat)
    (hin : 2 < s.cfg.serMax) :
    collectByte x s =
      if frameTurnedAway s then .next { s with sdState := .dropping }
      else if s.sdPos.toNat = (bufGet s.sdBuf 0).toNat + 3 then .next (nextPos { s with sdCrcHi := x })
      else if s.sdPos.toNat = (bufGet s.sdBuf 0).toNat + 4 then checkFrame (bufGet s.sdBuf 0).toNat x s
      else memWrite s.sdPos.toNat x s (fun s => .next (nextPos s)) := by
  rw [collectByte_collecting hst, if_neg (Nat.not_le.mpr hpos), bodyByte, memRead_inside (by omega), memRead_inside hin,
    frameTurnedAway]

/-- Where a logical byte past the header does not fault, the reads of the filter were in range. -/
theorem filter_inside_of_next {s t : State} {x : Byte} (hst : s.sdState = .collecting) (hpos : 2 < s.sdPos.toNat)
    (h : collectByte x s = .next t) : 2 < s.cfg.serMax := by
  rw [collectByte_collecting hst, if_neg (Nat.not_le.mpr hpos)] at h
  obtain ⟨-, h⟩ := memRead_next h
  exact (memRead_next h).1

/-- Where the check of a frame does not fault, the record was in range. -/
theorem record_inside_of_next {s t : State} {n : Nat} {x : Byte} (h : checkFrame n x s = .next t) : n + 3 ≤ s.cfg.serMax := by
  have hin := (memReadList_next h).2
  omega

theorem ignoresBuffer_endFrame : IgnoresBuffer (fun s => .next (endFrame s)) := fun s m => ignoresBuffer_next (endFrame s) m

/-- The output of a frame's end, and the end of the frame where it is accepted. -/
theorem emit_endFrame_position {o : Output} {s t : State} (h : emit o s (fun s => .next (endFrame s)) = .next t) :
    t.sdBuf = s.sdBuf ∧ (t.sdPos = s.sdPos ∨ t.sdPos = s.sdPos + 1#16) := by
  obtain ⟨-, rfl⟩ | ⟨-, -, rfl⟩ | ⟨-, -, hend⟩ := emit_next h
  · exact ⟨rfl, .inl rfl⟩
  · exact ⟨rfl, .inl rfl⟩
  · cases hend
    exact ⟨rfl, .inr rfl⟩

section
variable {s t : State} {m : Buffer} {x : Byte} (hm : Buffer.wf m) (hagree : AgreesOnWritten s m)
include hm hagree

theorem endsAlike_checkFrame (hpos : s.sdPos.toNat = (bufGet s.sdBuf 0).toNat + 4)
    (h : checkFrame (bufGet s.sdBuf 0).toNat x s = .next t) :
    EndsAlike t (checkFrame (bufGet s.sdBuf 0).toNat x (s.withBuf m)) := by
  have hrecord := record_inside_of_next h
  have hlen : bufGet (s.withBuf m).sdBuf 0 = bufGet s.sdBuf 0 := hagree 0 (written_of_header (by omega) (by omega))
  have hin : (bufGet (s.withBuf m).sdBuf 0).toNat + 3 ≤ (s.withBuf m).cfg.serMax := by
    rw [hlen]
    exact hrecord
  have hemit := checkFrame_next rfl h
  obtain ⟨hbuf, hmoved⟩ := emit_endFrame_position hemit
  have hpos' := hmoved.imp_right fun heq => And.intro heq (show (bufGet s.sdBuf 0).toNat + 3 ≤ s.sdPos.toNat by omega)
  rw [← hlen, checkFrame_inside hin, frameOutput_withBuf hagree hpos]
  exact endsAlike_of_position hm hagree hbuf hpos' (ignoresBuffer_emit ignoresBuffer_endFrame _ s m t hemit)

variable (hs : Buffer.wf s.sdBuf)
include hs

/-- Everything a logical byte does past the header is done alike. -/
theorem endsAlike_collectByte_body (hst : s.sdState = .collecting) (hpos : 2 < s.sdPos.toNat)
    (h : collectByte x s = .next t) : EndsAlike t (collectByte x (s.withBuf m)) := by
  have hin := filter_inside_of_next hst hpos h
  have hlen : bufGet (s.withBuf m).sdBuf 0 = bufGet s.sdBuf 0 := hagree 0 (written_of_header (by omega) (by omega))
  have hsame : (s.withBuf m).sdPos = s.sdPos := rfl
  rw [collectByte_body_inside hst hpos hin] at h
  rw [collectByte_body_inside (s := s.withBuf m) hst hpos hin, frameTurnedAway_withBuf hagree hpos, hlen, hsame]
  split at h
  · cases h
    rw [if_pos ‹_›]
    exact endsAlike_of_position hm hagree rfl (.inl rfl) rfl
  · rw [if_neg ‹_›]
    split at h
    · rename_i hhigh
      cases h
      rw [if_pos hhigh]
      exact endsAlike_of_position hm hagree rfl (.inr ⟨rfl, hhigh.ge⟩) rfl
    · rw [if_neg ‹_›]
      split at h
      · rename_i hlow
        rw [if_pos hlow]
        exact endsAlike_checkFrame hm hagree hlow h
      · rw [if_neg ‹_›]
        obtain ⟨hstore, h⟩ := memWrite_next h
        cases h
        rw [memWrite_inside (s := s.withBuf m) hstore]
        exact endsAlike_of_stored hs hm hagree x

theorem endsAlike_collectByte (h : collectByte x s = .next t) : EndsAlike t (collectByte x (s.withBuf m)) := by
  cases hst : s.sdState with
  | dropping =>
    rw [collectByte_dropping hst] at h
    cases h
    rw [collectByte_dropping (s := s.withBuf m) hst]
    exact endsAlike_of_position hm hagree rfl (.inl rfl) rfl
  | collecting =>
    by_cases hpos : s.sdPos.toNat ≤ 2
    · rw [collectByte_collecting hst, if_pos hpos] at h
      obtain ⟨hstore, h⟩ := memWrite_next h
      cases h
      have hsame : (s.withBuf m).sdPos = s.sdPos := rfl
      rw [collectByte_collecting (s := s.withBuf m) hst, hsame, if_pos hpos, memWrite_inside (s := s.withBuf m) hstore]
      exact endsAlike_of_stored hs hm hagree x
    · exact endsAlike_collectByte_body hm hagree hs hst (Nat.lt_of_not_le hpos) h

/-- Every instruction does the same over two buffers that agree on what the current frame has written. -/
theorem endsAlike_exec {i : Instr} (h : exec i s = .next t) : EndsAlike t (exec i (s.withBuf m)) := by
  obtain hi | ⟨d, p, rfl⟩ | ⟨p, rfl⟩ | rfl | rfl | rfl | rfl | ⟨b, rfl⟩ | ⟨f, rfl⟩ := instr_classes i
  · have hsame := exec_keeps_of_readsOnly (steady_sameEngine s) hi (.refl s) h
    exact endsAlike_of_ignoresBuffer (ignoresBuffer_of_readsOnly hi) hm hagree { hsame with } h
  · exact endsAlike_of_ignoresBuffer (ignoresBuffer_radSend d p) hm hagree (radSend_frame h).1.1 h
  · exact endsAlike_of_ignoresBuffer (ignoresBuffer_radSend _ p) hm hagree (radSend_frame h).1.1 h
  · exact endsAlike_of_ignoresBuffer (ignoresBuffer_radioInit (ignoresBuffer_respond [])) hm hagree (execRadReinit_frame h).1 h
  · exact endsAlike_of_ignoresBuffer ignoresBuffer_execSerRedraw hm hagree (execSerRedraw_frame h).1 h
  · cases h
    exact ⟨m, hm, rfl, fun j hj => absurd hj.1 (Nat.not_lt_zero j)⟩
  · cases h
    exact endsAlike_of_position hm hagree rfl (.inl rfl) rfl
  · exact endsAlike_collectByte (s := { s with sdEsc := false }) hm hagree hs h
  · exact endsAlike_of_ignoresBuffer (ignoresBuffer_execRadRx f) hm hagree (execRadRx_frame h).1 h

end

/-- Settles O56: a data byte reads written bytes only, and no other instruction reads the buffer. -/
theorem unwrittenBufferBytesAreNeverObserved : Obligations.UnwrittenBufferBytesAreNeverObserved := fun _ _ _ _ hs hm hagree h =>
  endsAlike_exec hm hagree hs h

end Sys2Proof.Machine
end

section
/-!
PROOF. From the serial encoder to an addressed decoder (spec/42_serial_framer.md section 6). The preamble starts a frame, the
stuffing is undone byte by byte, and by induction over the record the buffer holds what has been received of it; the filter then lets
the frame pass or drops the rest of it.
-/
namespace Sys2Proof.Machine

/-! ### What an accepted send writes -/

theorem map_writeByte_injective : Function.Injective (List.map Output.writeByte) :=
  List.map_injective_iff.mpr fun _ _ h => Output.writeByte.inj h

/-- Where a send ends with `OK` after bytes of the stream, its payload was within the limit and the bytes are its frame. -/
theorem serSend_accepted {s t : State} {d : Byte} {p ws : List Byte} (hs : s.Ready) (h : serSend d p s = .next t)
    (hout : t.out = s.out ++ ws.map Output.writeByte ++ [Output.response [0x00#8]]) :
    p.length ≤ s.cfg.serPlMax ∧ ws = serWire s.serSelf d p := by
  by_cases hp : p.length ≤ s.cfg.serPlMax
  · cases (serSend_within_ready hs hp d).symm.trans h
    rw [State.withOut_out, ← List.append_assoc, List.append_cancel_right_eq, List.append_cancel_left_eq] at hout
    exact ⟨hp, (map_writeByte_injective hout).symm⟩
  · cases (serSend_beyond_ready hs (Nat.lt_of_not_le hp) d).symm.trans h
    obtain ⟨-, hlast⟩ := List.append_inj' hout rfl
    cases hlast

/-! ### Logical bytes one after another -/

/-- The decoder right after a preamble (R154). -/
def State.frameStart (r : State) : State := { r with sdPos := 0#16, sdEsc := false, sdState := .collecting }

theorem feedBytes_serWire (src dst : Byte) (p : List Byte) (r : State) :
    feedBytes (serWire src dst p) r = feedLogical (serLogical src dst p) r.frameStart := by
  have hpreamble : decodeSerRx PREAMBLE = .serRxPreamble := by decide
  rw [serWire, feedBytes, hpreamble]
  exact feedBytes_stuff _ r.frameStart rfl

theorem feedLogical_cons {x : Byte} {s t : State} (h : collectByte x s = .next t) (xs : List Byte) :
    feedLogical (x :: xs) s = feedLogical xs t := by
  rw [feedLogical, h]

theorem feedLogical_append {a : List Byte} {s t : State} (h : feedLogical a s = .next t) (b : List Byte) :
    feedLogical (a ++ b) s = feedLogical b t := by
  induction a generalizing s with
  | nil => cases h; rfl
  | cons x a ih =>
    rw [List.cons_append]
    cases hx : collectByte x s with
    | next s' =>
      rw [feedLogical_cons hx] at h ⊢
      exact ih h
    | fault => rw [feedLogical, hx] at h; cases h
    | refused => rw [feedLogical, hx] at h; cases h

theorem feedLogical_dropping {s : State} (h : s.sdState = .dropping) (xs : List Byte) : feedLogical xs s = .next s := by
  induction xs with
  | nil => rfl
  | cons x xs ih => rw [feedLogical_cons (collectByte_dropping h), ih]

/-! ### What the buffer holds of the record -/

/-- The decoder `u` has collected exactly the logical bytes `xs` since `r` got a preamble. -/
structure Collected (r u : State) (xs : List Byte) : Prop where
  rest : u = { r with sdState := .collecting, sdEsc := false, sdPos := u.sdPos, sdBuf := u.sdBuf }
  pos : u.sdPos.toNat = xs.length
  bytes : bufSlice u.sdBuf 0 xs.length = xs
  bufWf : Buffer.wf u.sdBuf

/-- The decoder with a logical byte stored at its position (R161, R162). -/
def State.stored (u : State) (x : Byte) : State := nextPos { u with sdBuf := bufSet u.sdBuf u.sdPos.toNat x }

theorem bufSlice_bufSet {m : Buffer} (hm : Buffer.wf m) (n : Nat) (x : Byte) :
    bufSlice (bufSet m n x) 0 (n + 1) = bufSlice m 0 n ++ [x] := by
  have hbelow : (List.range n).map (bufGet (bufSet m n x)) = (List.range n).map (bufGet m) :=
    List.map_congr_left fun j hj => bufGet_bufSet_other (List.mem_range.mp hj).ne
  rw [bufSlice_zero, bufSlice_zero, List.range_succ, List.map_append, hbelow, List.map_singleton, bufGet_bufSet_same hm]

section
variable {r u : State} {xs : List Byte}

theorem Collected.frameStart (hr : Buffer.wf r.sdBuf) : Collected r r.frameStart [] := ⟨rfl, rfl, rfl, hr⟩

theorem Collected.sdState (h : Collected r u xs) : u.sdState = .collecting := by rw [h.rest]

theorem Collected.cfg (h : Collected r u xs) : u.cfg = r.cfg := by rw [h.rest]

theorem Collected.serSelf (h : Collected r u xs) : u.serSelf = r.serSelf := by rw [h.rest]

theorem Collected.out (h : Collected r u xs) : u.out = r.out := by rw [h.rest]

theorem Collected.sameAddresses (h : Collected r u xs) : SameAddresses r u := by
  rw [h.rest]
  exact ⟨rfl, rfl, rfl, rfl⟩

theorem Collected.ready (h : Collected r u xs) (hr : r.Ready) : u.Ready := by
  rw [h.rest]
  exact ⟨hr.accepts, hr.resetIn, hr.stalled⟩

theorem Collected.stored (h : Collected r u xs) (hroom : xs.length < 65535) (x : Byte) :
    Collected r (u.stored x) (xs ++ [x]) where
  rest := by
    rw [State.stored, h.rest]
    rfl
  pos := by
    have hpos := nextPos_toNat (s := { u with sdBuf := bufSet u.sdBuf u.sdPos.toNat x }) (h.pos ▸ hroom)
    rw [State.stored, hpos, List.length_append, List.length_singleton, ← h.pos]
  bytes := by
    have hbuf : (u.stored x).sdBuf = bufSet u.sdBuf xs.length x := by rw [← h.pos]; rfl
    rw [hbuf, List.length_append, List.length_singleton, bufSlice_bufSet h.bufWf, h.bytes]
  bufWf := bufSet_wf h.bufWf _ _

/-- The first three bytes collected are the header, the others the payload so far (R77). -/
theorem Collected.header {len src dst : Byte} {p : List Byte} (h : Collected r u (len :: src :: dst :: p)) :
    bufGet u.sdBuf 0 = len ∧ bufGet u.sdBuf 1 = src ∧ bufGet u.sdBuf 2 = dst ∧ bufSlice u.sdBuf 3 p.length = p := by
  have hbytes : bufGet u.sdBuf 0 :: bufGet u.sdBuf 1 :: bufGet u.sdBuf 2 :: bufSlice u.sdBuf 3 p.length =
      len :: src :: dst :: p := h.bytes
  simpa using hbytes

end

/-- Bytes that are each stored where they stand in the record are all collected. -/
theorem feedLogical_stored {r u : State} {front ys : List Byte} (h : Collected r u front)
    (hroom : (front ++ ys).length ≤ 65535)
    (hstep : ∀ a x b v, front ++ ys = a ++ x :: b → Collected r v a → collectByte x v = .next (v.stored x)) :
    ∃ v, feedLogical ys u = .next v ∧ Collected r v (front ++ ys) := by
  induction ys generalizing u front with
  | nil => exact ⟨u, rfl, by rwa [List.append_nil]⟩
  | cons y ys ih =>
    have hlt : front.length < 65535 := by
      simp only [List.length_append, List.length_cons] at hroom
      omega
    rw [List.append_cons] at hroom hstep ⊢
    rw [feedLogical_cons (hstep front y ys u (List.append_assoc _ _ _) h)]
    exact ih (h.stored hlt y) hroom hstep

/-- A byte of the header is stored whatever it is (R157). -/
theorem Collected.collectByte_header {r u : State} {a : List Byte} (h : Collected r u a) (hcfg : r.cfg.Valid)
    (ha : a.length ≤ 2) (x : Byte) : collectByte x u = .next (u.stored x) :=
  Machine.collectByte_header (h.cfg ▸ hcfg) h.sdState (h.pos.trans_le ha) x

/-! ### The addressed decoder -/

/-- The decoder with a logical byte latched as the CRC high byte (R159, R162). -/
def State.latched (u : State) (x : Byte) : State := nextPos { u with sdCrcHi := x }

theorem State.Ready.latched {u : State} (hu : u.Ready) (x : Byte) : (u.latched x).Ready := ⟨hu.accepts, hu.resetIn, hu.stalled⟩

/-- The frame of a payload of `n` bytes to `dst` passes the filter of the decoder `r` (R158). -/
structure Passes (r : State) (n : Nat) (dst : Byte) : Prop where
  cfg : r.cfg.Valid
  length : n ≤ r.cfg.serMax - 5
  destination : dst = r.serSelf ∨ dst = 0x00#8

theorem Passes.length_le {r : State} {n : Nat} {dst : Byte} (h : Passes r n dst) : n + 5 ≤ r.cfg.serMax ∧ n ≤ 255 := by
  have hlow := h.cfg.serMax_low
  have hhigh := h.cfg.serMax_high
  have hlen := h.length
  omega

/-- The length byte counts the payload (R77). -/
theorem Passes.lengthByte {r : State} {n : Nat} {dst : Byte} (h : Passes r n dst) : (BitVec.ofNat 8 n).toNat = n := by
  have hle := h.length_le
  rw [BitVec.toNat_ofNat]
  omega

/-- The two CRC bytes put together are the CRC (R77). -/
theorem crcHigh_append_crcLow (c : Half) : (crcHigh c ++ crcLow c : BitVec (8 + 8)) = c := by
  have hc := c.isLt
  refine BitVec.eq_of_toNat_eq ?_
  rw [toNat_append_eq_add, crcHigh, crcLow, BitVec.extractLsb'_toNat, BitVec.extractLsb'_toNat, Nat.shiftRight_eq_div_pow,
    Nat.shiftRight_eq_div_pow]
  omega

section
variable {r u : State} {src dst : Byte} {p : List Byte} (hpass : Passes r p.length dst)
include hpass

theorem Collected.length_eq {q : List Byte} (h : Collected r u (BitVec.ofNat 8 p.length :: src :: dst :: q)) :
    (bufGet u.sdBuf 0).toNat = p.length := by
  rw [h.header.1, hpass.lengthByte]

/-- Once the header is collected, the two tests of the filter let the frame pass. -/
theorem Collected.passes_filter {q : List Byte} (h : Collected r u (BitVec.ofNat 8 p.length :: src :: dst :: q)) :
    (bufGet u.sdBuf 0).toNat ≤ u.cfg.serMax - 5 ∧ (bufGet u.sdBuf 2 = u.serSelf ∨ bufGet u.sdBuf 2 = 0x00#8) := by
  obtain ⟨-, -, hdst, -⟩ := h.header
  rw [h.length_eq hpass, hdst, h.cfg, h.serSelf]
  exact ⟨hpass.length, hpass.destination⟩

theorem Collected.not_turnedAway {q : List Byte} (h : Collected r u (BitVec.ofNat 8 p.length :: src :: dst :: q)) :
    frameTurnedAway u = false :=
  frameTurnedAway_eq_false (h.passes_filter hpass).1 (h.passes_filter hpass).2

/-- Every byte of the record is stored where it stands (R157, R161). -/
theorem Collected.collectByte_record {a b : List Byte} {x : Byte} (h : Collected r u a)
    (hrecord : serRecord src dst p = a ++ x :: b) : collectByte x u = .next (u.stored x) := by
  match a with
  | [] | [_] | [_, _] => exact h.collectByte_header hpass.cfg (by simp) x
  | _ :: _ :: _ :: q =>
    obtain ⟨hle, -⟩ := hpass.length_le
    have hq : q.length < p.length := by
      have := congrArg List.length hrecord
      simp only [serRecord, List.cons_append, List.length_cons, List.length_append] at this
      omega
    simp only [serRecord, List.cons_append, List.cons.injEq] at hrecord
    obtain ⟨rfl, rfl, rfl, -⟩ := hrecord
    have hlen := h.length_eq hpass
    have hpos : u.sdPos.toNat = q.length + 3 := h.pos
    have hcfg : u.cfg = r.cfg := h.cfg
    exact collectByte_payload (hcfg ▸ hpass.cfg) h.sdState (by omega) (h.not_turnedAway hpass) (by omega) (by omega)
      (by rw [hcfg]; omega) x

/-- The whole record is collected. -/
theorem feedLogical_record (hr : Buffer.wf r.sdBuf) :
    ∃ u, feedLogical (serRecord src dst p) r.frameStart = .next u ∧ Collected r u (serRecord src dst p) := by
  refine feedLogical_stored (.frameStart hr) ?_ fun a x b v hsplit hv => hv.collectByte_record hpass hsplit
  obtain ⟨-, hle⟩ := hpass.length_le
  simp only [List.nil_append, serRecord, List.length_cons]
  omega

/-- The check of a collected record against its own CRC is the delivery of its payload (R160). -/
theorem Collected.frameOutput_eq (h : Collected r u (serRecord src dst p)) {high low : Byte}
    (hcrc : (high ++ low : BitVec (8 + 8)) = crc16 (serRecord src dst p)) :
    frameOutput low (u.latched high) = Output.deliver p r.cfg.ifSerial src := by
  obtain ⟨-, hsrc, -, hpayload⟩ := h.header
  have hlength := h.length_eq hpass
  have hmatch : crc16 (bufSlice u.sdBuf 0 ((bufGet u.sdBuf 0).toNat + 3)) = (high ++ low : BitVec (8 + 8)) := by
    rw [hlength, hcrc]
    exact congrArg crc16 h.bytes
  rw [frameOutput_of_crc_match (s := u.latched high) hmatch, ← h.cfg, ← hsrc]
  exact congrArg (Output.deliver · _ _) (hlength ▸ hpayload)

/-- The CRC bytes behind a collected record end the frame with the delivery of its payload (R159, R160). -/
theorem feedLogical_crc (hr : r.Ready) (h : Collected r u (serRecord src dst p)) {high low : Byte}
    (hcrc : (high ++ low : BitVec (8 + 8)) = crc16 (serRecord src dst p)) :
    ∃ v, feedLogical [high, low] u = .next v ∧ v.out = r.out ++ [Output.deliver p r.cfg.ifSerial src] := by
  have hcfg : u.cfg.Valid := h.cfg ▸ hpass.cfg
  have hpos : u.sdPos.toNat = (bufGet u.sdBuf 0).toNat + 3 := by rw [h.length_eq hpass]; exact h.pos
  have hmoved : (u.latched high).sdPos.toNat = (bufGet u.sdBuf 0).toNat + 4 := by
    have hle := (bufGet u.sdBuf 0).isLt
    rw [State.latched, nextPos_toNat (s := { u with sdCrcHi := high }) (show u.sdPos.toNat < 65535 by omega), hpos]
  obtain ⟨hfits, hself⟩ := h.passes_filter hpass
  have hhigh := collectByte_crcHigh hcfg h.sdState (h.not_turnedAway hpass) hpos high
  have hlow := collectByte_crcLow_ready (s := u.latched high) ((h.ready hr).latched high) hcfg h.sdState hfits hself hmoved low
  rw [h.frameOutput_eq hpass hcrc] at hlow
  exact ⟨_, (feedLogical_cons hhigh _).trans (feedLogical_cons hlow []), congrArg (· ++ _) h.out⟩

end

/-- Settles O38: the sender's record is collected whole, and its CRC bytes end the frame with the one delivery. -/
theorem serialRoundTripDeliversThePayload : Obligations.SerialRoundTripDeliversThePayload := by
  intro s t r d p ws hs h hout hinv hr hmax hself
  obtain ⟨hp, rfl⟩ := serSend_accepted hs h hout
  have hpass : Passes r p.length d := ⟨hinv.cfg, by rw [hmax]; exact hp, hself.imp_left Eq.symm⟩
  obtain ⟨u, hrecord, hu⟩ := feedLogical_record (src := s.serSelf) hpass hinv.bufWf
  obtain ⟨v, hcrc, hv⟩ := feedLogical_crc hpass hr hu (crcHigh_append_crcLow _)
  exact ⟨v, by rw [feedBytes_serWire, serLogical, feedLogical_append hrecord, hcrc], hv⟩

/-! ### Any other decoder -/

/-- The header of any frame is collected. -/
theorem feedLogical_header {r : State} (hcfg : r.cfg.Valid) (hr : Buffer.wf r.sdBuf) (len src dst : Byte) :
    ∃ u, feedLogical [len, src, dst] r.frameStart = .next u ∧ Collected r u [len, src, dst] := by
  refine feedLogical_stored (.frameStart hr) (by simp) fun a x b v hsplit hv => hv.collectByte_header hcfg ?_ x
  have hlength := congrArg List.length hsplit
  simp only [List.nil_append, List.length_cons, List.length_nil, List.length_append] at hlength
  omega

/-- The first byte behind the header of a frame to another node drops it, and the rest of it changes nothing (R158). -/
theorem feedLogical_misaddressed {r u : State} {len src dst : Byte} (hcfg : r.cfg.Valid)
    (h : Collected r u [len, src, dst]) (hself : dst ≠ r.serSelf) (hbcast : dst ≠ 0x00#8) (x : Byte) (xs : List Byte) :
    feedLogical (x :: xs) u = .next { u with sdState := .dropping } := by
  obtain ⟨-, -, hdst, -⟩ := h.header
  have hf : frameTurnedAway u = true := by
    refine frameTurnedAway_iff.mpr (.inr ⟨?_, ?_⟩)
    · rw [hdst, h.serSelf]; exact hself
    · rw [hdst]; exact hbcast
  have hpos : 2 < u.sdPos.toNat := by rw [h.pos]; exact Nat.lt_succ_self 2
  rw [feedLogical_cons (collectByte_turnedAway (h.cfg ▸ hcfg) h.sdState hpos hf x)]
  exact feedLogical_dropping rfl xs

/-- Settles O39: the header is collected, and the frame is dropped at the byte behind it, of which there is always one. -/
theorem misaddressedFrameIsSilent : Obligations.MisaddressedFrameIsSilent := by
  intro s t r d p ws hs h hout hinv hr hself hd
  obtain ⟨-, rfl⟩ := serSend_accepted hs h hout
  obtain ⟨u, hheader, hu⟩ := feedLogical_header hinv.cfg hinv.bufWf (BitVec.ofNat 8 p.length) s.serSelf d
  obtain ⟨x, xs, hrest⟩ : ∃ x xs, serLogical s.serSelf d p = [BitVec.ofNat 8 p.length, s.serSelf, d] ++ x :: xs := by
    cases p with
    | nil => exact ⟨_, _, rfl⟩
    | cons y p => exact ⟨_, _, rfl⟩
  refine ⟨{ u with sdState := .dropping }, ?_, hu.out, { hu.sameAddresses with }⟩
  rw [feedBytes_serWire, hrest, feedLogical_append hheader]
  exact feedLogical_misaddressed hinv.cfg hu hself.symm hd x xs

end Sys2Proof.Machine
end
